-- ==== Sys2Proof/Word.lean ====
section
/-! DEFINITION. The word types of HUF1 (00_scope R11 to R13; 10_state R30). -/

namespace Sys2Proof

/-- A register value: 32 bits, unsigned (10_state R30, 00_scope R12). -/
abbrev Word := BitVec 32

/-- One byte of the packed stream (20_memory R78). -/
abbrev Byte := BitVec 8

/-- `Bit` of 00_scope R13: `false` is 0 and `true` is 1. -/
abbrev Bit := Bool

/-- A code point as it crosses the interface: the whole 32-bit word (20_memory R77). That it is at
most 0x10FFFF (00_scope R11) is checked by the commands that take one. -/
abbrev CP := BitVec 32

/-- `Symbol` of 00_scope R13: a list of code points. -/
abbrev Symbol := List CP

/-- `Code` of 00_scope R13: its element 0 is the bit nearest the root. -/
abbrev Code := List Bit

end Sys2Proof
end

