-- ==== Sys2Proof/Config.lean ====
section
/-! DEFINITION. The implementation parameters of 00_scope R8 and R10 and 20_memory R70. -/

namespace Sys2Proof

/-- `ALPHA_CLASS` (00_scope R10), as plain data. `asciiLetters` is the default class. `custom`
stands for the other classes a model may be configured with: the code CFG_ALPHA reports for it and
the inclusive ranges of code points it counts as alphabetic; every class is such a list.
DESIGN CHOICE (log 3), safe. -/
inductive AlphaClass where
  | asciiLetters
  | custom (code : Word) (ranges : List (CP × CP))
deriving DecidableEq, Repr

/-- The parameters a model takes as arguments (00_scope R8, 20_memory R70). -/
structure Config where
  /-- `HUF_BASE`: where the platform puts the window (20_memory R70). -/
  hufBase    : Nat
  /-- `N_SYM` -/
  nSym       : Nat
  /-- `W_MAX` -/
  wMax       : Nat
  /-- `STREAM_CAP` -/
  streamCap  : Nat
  /-- `MAX_CODE_LEN` -/
  maxCodeLen : Nat
  /-- `BYTE_CAP` -/
  byteCap    : Nat
  /-- `DNODE_CAP` -/
  dnodeCap   : Nat
  /-- `OUT_CAP` -/
  outCap     : Nat
  /-- `ALPHA_CLASS` -/
  alpha      : AlphaClass
deriving DecidableEq, Repr

/-- The defaults 00_scope R8 chooses for HUF1. `HUF_BASE` has no default in the spec; 0 is a
DESIGN CHOICE (log 2), unsafe for a claim that rests on the absolute address. -/
def Config.huf1 : Config where
  hufBase    := 0
  nSym       := 4096
  wMax       := 64
  streamCap  := 1048576
  maxCodeLen := 64
  byteCap    := 8388608
  dnodeCap   := 8192
  outCap     := 67108864
  alpha      := .asciiLetters

end Sys2Proof
end

