-- ==== Sys2Proof/Syntax.lean ====
section
/-! DEFINITION. The command set: one constructor per row of spec/opcode_table.json, which is the
table of 30_encoding R103. A command word carries no operand (R100), so no constructor has a field. -/

namespace Sys2Proof

/-- The 29 commands of 30_encoding R103, in the table's order. -/
inductive Instr where
  | nop
  | sreset
  | encStart
  | encPush
  | encEnd
  | encBuild
  | encAssign
  | encPack
  | encRdNsym
  | encRdSymlen
  | encRdSymcp
  | encRdFreq
  | encRdCodelen
  | encRdCodebit
  | encRdNstream
  | encRdNbytes
  | encRdByte
  | encRdPad
  | decStart
  | decAddCp
  | decAddBit
  | decCommit
  | decSetPad
  | decPushByte
  | decRun
  | decRdNsym
  | decRdOutlen
  | decRdOutcp
  | decRdNent
deriving DecidableEq, Repr

end Sys2Proof
end

