-- ==== Sys2Proof/WellFormed.lean ====
section
/-! DEFINITION. Well-formedness: of a configuration (the constraint column of 00_scope R8), of a
command word's form (30_encoding R100) and of an instruction. -/

namespace Sys2Proof

/-- The class constraint of 00_scope R10 and 10_state R38: code 0 is ASCII_LETTERS' alone. -/
def AlphaClass.wf : AlphaClass → Bool
  | .asciiLetters => true
  | .custom code _ => code != 0

/-- The constraint column of 00_scope R8, one conjunct per parameter. -/
def Config.wf (c : Config) : Bool :=
  decide (1 ≤ c.nSym ∧ c.nSym ≤ 2 ^ 31) &&
  decide (1 ≤ c.wMax ∧ c.wMax ≤ 2 ^ 32 - 1) &&
  decide (1 ≤ c.streamCap ∧ c.streamCap ≤ 2 ^ 32 - 1) &&
  decide (1 ≤ c.maxCodeLen ∧ c.maxCodeLen ≤ 2 ^ 32 - 1) &&
  decide (1 ≤ c.byteCap ∧ c.byteCap ≤ 2 ^ 28) &&
  decide (1 ≤ c.dnodeCap ∧ c.dnodeCap ≤ 2 ^ 32 - 1) &&
  decide (1 ≤ c.outCap ∧ c.outCap ≤ 2 ^ 32 - 1) &&
  c.alpha.wf

/-- A *balanced* configuration (00_scope R9). -/
def Config.balanced (c : Config) : Bool :=
  decide (2 * c.nSym ≤ c.dnodeCap) &&
  decide (c.streamCap * c.maxCodeLen ≤ c.byteCap * 8) &&
  decide (c.streamCap * c.wMax ≤ c.outCap)

/-- The form of a command word (30_encoding R100): the reserved bits 31:8 are 0. -/
def CommandWord.wf (w : Word) : Bool := w.extractLsb' 8 24 == 0

/-- An instruction has no operand field, so each of the 29 is well formed (30_encoding R106). The
checks of an operand's range are the commands' own, on ARG0 and ARG1 (R102). -/
def Instr.wf : Instr → Bool := fun _ => true

end Sys2Proof
end

