-- ==== Sys2Proof/Decode.lean ====
section
/-! DEFINITION. Decoding and encoding of command words (30_encoding R100, R103, R105, R106). -/

namespace Sys2Proof

/-- Why a word is no command (30_encoding R105). -/
inductive DecodeError where
  /-- `CMD[31:8] ≠ 0`. -/
  | reservedBits
  /-- `CMD[7:0]` is not one of the 29 opcodes. -/
  | unlistedOpcode
deriving DecidableEq, Repr

/-- The control rows of 30_encoding R103. -/
def controlOpcodes : List (BitVec 8 × Instr) :=
  [(0x00, .nop), (0x01, .sreset)]

/-- The encoder rows of 30_encoding R103 that build a run. -/
def encoderOpcodes : List (BitVec 8 × Instr) :=
  [(0x10, .encStart), (0x11, .encPush), (0x12, .encEnd), (0x13, .encBuild), (0x14, .encAssign),
   (0x15, .encPack)]

/-- The encoder readout rows of 30_encoding R103. -/
def encoderReadoutOpcodes : List (BitVec 8 × Instr) :=
  [(0x20, .encRdNsym), (0x21, .encRdSymlen), (0x22, .encRdSymcp), (0x23, .encRdFreq),
   (0x24, .encRdCodelen), (0x25, .encRdCodebit), (0x26, .encRdNstream), (0x27, .encRdNbytes),
   (0x28, .encRdByte), (0x29, .encRdPad)]

/-- The decoder rows of 30_encoding R103. -/
def decoderOpcodes : List (BitVec 8 × Instr) :=
  [(0x30, .decStart), (0x31, .decAddCp), (0x32, .decAddBit), (0x33, .decCommit),
   (0x34, .decSetPad), (0x35, .decPushByte), (0x36, .decRun), (0x40, .decRdNsym),
   (0x41, .decRdOutlen), (0x42, .decRdOutcp), (0x43, .decRdNent)]

/-- The opcode map of 30_encoding R103. -/
def opcodeTable : List (BitVec 8 × Instr) :=
  controlOpcodes ++ encoderOpcodes ++ encoderReadoutOpcodes ++ decoderOpcodes

/-- The command an opcode names, by 30_encoding R103. -/
def decodeOpcode (op : BitVec 8) : Except DecodeError Instr :=
  match opcodeTable.lookup op with
  | some i => .ok i
  | none => .error .unlistedOpcode

/-- The command a word is: `rsv = CMD[31:8]` must be 0 and `op = CMD[7:0]` must be listed; nothing
else selects a command (30_encoding R105, R106). -/
def decode (w : Word) : Except DecodeError Instr :=
  if w.extractLsb' 8 24 = 0 then decodeOpcode (w.extractLsb' 0 8) else .error .reservedBits

/-- The command word of an instruction (30_encoding R100, R103). -/
def encode : Instr → Word
  | .nop => 0x00000000
  | .sreset => 0x00000001
  | .encStart => 0x00000010
  | .encPush => 0x00000011
  | .encEnd => 0x00000012
  | .encBuild => 0x00000013
  | .encAssign => 0x00000014
  | .encPack => 0x00000015
  | .encRdNsym => 0x00000020
  | .encRdSymlen => 0x00000021
  | .encRdSymcp => 0x00000022
  | .encRdFreq => 0x00000023
  | .encRdCodelen => 0x00000024
  | .encRdCodebit => 0x00000025
  | .encRdNstream => 0x00000026
  | .encRdNbytes => 0x00000027
  | .encRdByte => 0x00000028
  | .encRdPad => 0x00000029
  | .decStart => 0x00000030
  | .decAddCp => 0x00000031
  | .decAddBit => 0x00000032
  | .decCommit => 0x00000033
  | .decSetPad => 0x00000034
  | .decPushByte => 0x00000035
  | .decRun => 0x00000036
  | .decRdNsym => 0x00000040
  | .decRdOutlen => 0x00000041
  | .decRdOutcp => 0x00000042
  | .decRdNent => 0x00000043

/-- The instruction the decoder reads from a table word: a command is exactly one 32-bit word
(30_encoding R106), so the table's bit numbers are the word's own, and a pattern with a bit above
bit 31 is no command word. -/
def decodeTableWord (nbits w : Nat) : Option Instr :=
  if w % 2 ^ nbits < 2 ^ 32 then
    match decode (BitVec.ofNat 32 (w % 2 ^ nbits)) with
    | .ok i => some i
    | .error _ => none
  else none

end Sys2Proof
end

