-- ==== Sys2Proof/Machine/State.lean ====
section
/-! DEFINITION. The machine's state (10_state), the reasons a step can stop, and reset. -/

namespace Sys2Proof.Machine

/-- The result codes of 60_exceptions R360. Codes 8 to 255 are never produced. -/
inductive ResultCode where
  | ok
  | eIllegal
  | eState
  | eArg
  | eIndex
  | eCapacity
  | eTable
  | eCorrupt
deriving DecidableEq, Repr

/-- The stage codes of 60_exceptions R361. Codes 9 to 15 are never produced. -/
inductive Stage where
  | none
  | analysis
  | treeBuild
  | codeAssign
  | packing
  | artifactLoad
  | decode
  | readout
  | control
deriving DecidableEq, Repr

/-- `E.state` (10_state R41). -/
inductive EncState where
  | idle
  | loading
  | analyzed
  | built
  | assigned
  | packed
  | error
deriving DecidableEq, Repr

/-- `D.state` (10_state R56). -/
inductive DecState where
  | idle
  | load
  | done
  | error
deriving DecidableEq, Repr

/-- `E.mode` (10_state R42). -/
inductive Mode where
  | char
  | word
deriving DecidableEq, Repr

/-- A node of the encoder's tree (10_state R46). Ids, symbol indices and weights are naturals
(00_scope R12); that they fit 32 bits is 10_state R50 (DEDUCED, log 15). -/
inductive EncNode where
  | leaf (sym : Nat) (weight : Nat)
  | internal (left right : Nat) (weight : Nat)
deriving DecidableEq, Repr

/-- A node of the decode tree (10_state R59). -/
structure DecNode where
  c0   : Option Nat
  c1   : Option Nat
  leaf : Option Nat
deriving DecidableEq, Repr

/-- The encoder unit's state E (10_state R40 to R48). -/
structure Encoder where
  state  : EncState
  mode   : Mode
  sym    : List Symbol
  freq   : List Nat
  stream : List Nat
  word   : List CP
  node   : List EncNode
  root   : Option Nat
  code   : List Code
  bytes  : List Byte
  pad    : Fin 8
deriving DecidableEq, Repr

/-- The decoder unit's state D (10_state R55 to R62). -/
structure Decoder where
  state    : DecState
  sym      : List Symbol
  psym     : List CP
  pcode    : Code
  node     : List DecNode
  pad      : Fin 8
  padValid : Bool
  bytes    : List Byte
  out      : List CP
  nout     : Nat
deriving DecidableEq, Repr

/-- One access by the host to the bus (00_scope R15, 20_memory R71, R72): the absolute byte address
and the width in bytes. Only width 4 is defined; the others can be written down so that the model
refuses them by name. -/
inductive HostOp where
  | read (addr width : Nat)
  | write (addr width : Nat) (v : Word)
deriving DecidableEq, Repr

/-- One move of one of the three agents of 30_encoding R115. -/
inductive Move where
  | engine
  | host (op : HostOp)
  | reset
deriving DecidableEq, Repr

/-- The machine. `cfg`, `moves` and `obs` are the model's own fields (log 1, 4, 7); every other
field is a piece of state 10_state names. STATUS is not stored: it is computed from the unit
states, `lastRc`, `lastStage` and `pending` (R36). -/
structure State where
  /-- The implementation parameters (00_scope R8); no step changes them. -/
  cfg       : Config
  /-- ARG0 (R33) -/
  arg0      : Word
  /-- ARG1 (R34) -/
  arg1      : Word
  /-- RESULT (R35) -/
  result    : Word
  /-- STATUS.LAST_RC (R36) -/
  lastRc    : ResultCode
  /-- STATUS.LAST_STAGE (R36) -/
  lastStage : Stage
  /-- ENC_ERR (R37) -/
  encErr    : Word
  /-- DEC_ERR (R37) -/
  decErr    : Word
  /-- PENDING (R39) -/
  pending   : Option Word
  /-- E (R40) -/
  enc       : Encoder
  /-- D (R55) -/
  dec       : Decoder
  /-- The moves the agents still take, next one first (30_encoding R115; DESIGN CHOICE, log 4). -/
  moves     : List Move
  /-- The values the host's reads returned, oldest first (30_encoding R118; log 7). -/
  obs       : List Word
deriving DecidableEq, Repr

/-- A fault stops the machine. No command raises one. -/
inductive Fault where
  /-- Raised by a host access whose address lies outside the 256-byte window (20_memory R70): no
  register of the block has that address. Safe: the model stops (log 12). -/
  | outsideWindow
deriving DecidableEq, Repr

/-- A refusal: the host program has no meaning. No command raises one. -/
inductive Refusal where
  /-- Raised by an arm of `exec` whose instruction has no meaning yet; no arm is such. Safe. -/
  | notModelled (mnemonic : String)
  /-- Raised by a host access of a width other than 32 bits (20_memory R72). Safe. -/
  | accessWidth
  /-- Raised by a host access at an offset that is no multiple of 4 (20_memory R73). Safe. -/
  | misaligned
  /-- Raised by a host access while BUSY = 1, other than a read of STATUS, ID, CAP_* or CFG_ALPHA
  (30_encoding R116, 60_exceptions R376). Safe. -/
  | busyViolation
deriving DecidableEq, Repr

/-- E at its reset value (10_state R64): state IDLE; the other fields are unspecified there and
hold the empty values of the spec's own model (DESIGN CHOICE, log 8). -/
def Encoder.empty : Encoder where
  state  := .idle
  mode   := .char
  sym    := []
  freq   := []
  stream := []
  word   := []
  node   := []
  root   := none
  code   := []
  bytes  := []
  pad    := 0

/-- D at its reset value (10_state R64), like `Encoder.empty`. -/
def Decoder.empty : Decoder where
  state    := .idle
  sym      := []
  psym     := []
  pcode    := []
  node     := []
  pad      := 0
  padValid := false
  bytes    := []
  out      := []
  nout     := 0

/-- The machine right after reset (10_state R64, 70_reset_and_hazards R400), with the default
parameters of 00_scope R8, no move scheduled and nothing observed. -/
def State.reset : State where
  cfg       := Config.huf1
  arg0      := 0
  arg1      := 0
  result    := 0
  lastRc    := .ok
  lastStage := .none
  encErr    := 0
  decErr    := 0
  pending   := none
  enc       := Encoder.empty
  dec       := Decoder.empty
  moves     := []
  obs       := []

/-! The updates of a state, one function each; their field lemmas are in Laws/State.lean. -/

def State.setArg0 (s : State) (v : Word) : State := { s with arg0 := v }
def State.setArg1 (s : State) (v : Word) : State := { s with arg1 := v }
def State.setEncErr (s : State) (v : Word) : State := { s with encErr := v }
def State.setDecErr (s : State) (v : Word) : State := { s with decErr := v }
def State.setPending (s : State) (p : Option Word) : State := { s with pending := p }
def State.setEnc (s : State) (e : Encoder) : State := { s with enc := e }
def State.setDec (s : State) (d : Decoder) : State := { s with dec := d }
def State.setMoves (s : State) (m : List Move) : State := { s with moves := m }
def State.setObs (s : State) (o : List Word) : State := { s with obs := o }

/-- The three registers every completing command writes (40_control R131, R132, R134). -/
def State.setReport (s : State) (v : Word) (rc : ResultCode) (st : Stage) : State :=
  { s with result := v, lastRc := rc, lastStage := st }

end Sys2Proof.Machine
end

