-- ==== Sys2Proof/Machine/Flags.lean ====
section
/-! DEFINITION. The codes and status words: STATUS (10_state R36), ENC_ERR and DEC_ERR (R37), the
unit-state codes (R41, R56), the result codes (60_exceptions R360) and the stage codes (R361). -/

namespace Sys2Proof.Machine

/-- 60_exceptions R360. -/
def ResultCode.code : ResultCode → BitVec 8
  | .ok => 0
  | .eIllegal => 1
  | .eState => 2
  | .eArg => 3
  | .eIndex => 4
  | .eCapacity => 5
  | .eTable => 6
  | .eCorrupt => 7

/-- 60_exceptions R361. -/
def Stage.code : Stage → BitVec 4
  | .none => 0
  | .analysis => 1
  | .treeBuild => 2
  | .codeAssign => 3
  | .packing => 4
  | .artifactLoad => 5
  | .decode => 6
  | .readout => 7
  | .control => 8

/-- 10_state R41. -/
def EncState.code : EncState → BitVec 4
  | .idle => 0
  | .loading => 1
  | .analyzed => 2
  | .built => 3
  | .assigned => 4
  | .packed => 5
  | .error => 15

/-- 10_state R56. -/
def DecState.code : DecState → BitVec 4
  | .idle => 0
  | .load => 1
  | .done => 2
  | .error => 15

/-- `STATUS.BUSY`: 1 exactly when `PENDING ≠ NONE` (10_state R36, R39). -/
def State.busy (s : State) : Bool := s.pending.isSome

/-- STATUS: BUSY in bit 31, bits 30:20 zero, LAST_STAGE, LAST_RC, DEC_STATE, ENC_STATE
(10_state R36). -/
def State.status (s : State) : Word :=
  BitVec.ofBool s.busy ++ (0 : BitVec 11) ++ s.lastStage.code ++ s.lastRc.code ++
    s.dec.state.code ++ s.enc.state.code

/-- The value of ENC_ERR or DEC_ERR on entry to ERROR, `zext_32(st * 256 + E_X)`: STAGE in [11:8],
RC in [7:0], the rest 0 (40_control R132, 10_state R37). -/
def errWord (st : Stage) (rc : ResultCode) : Word :=
  (0 : BitVec 20) ++ st.code ++ rc.code

/-- A count or index as the 32-bit value `complete` takes; that it fits is 10_state R50. -/
def countWord (n : Nat) : Word := BitVec.ofNat 32 n

/-- The numeric value of a bit. -/
def bitWord (b : Bit) : Word := if b then 1 else 0

/-- `zext_32` of a byte (00_scope R12). -/
def byteWord (b : Byte) : Word := b.setWidth 32

end Sys2Proof.Machine
end

