-- ==== Sys2Proof/Machine/Operands.lean ====
section
/-! DEFINITION. The operand forms of 30_encoding R102, each read from the whole 32-bit value of
ARG0 or ARG1, with the result code its range check gives; and the alphabetic class of 00_scope R10.
No operand is scaled, shifted, sign-extended or assembled from pieces. -/

namespace Sys2Proof.Machine

/-- Form `mode`: 0 is CHAR and 1 is WORD; bits 31:1 must be 0, else E_ARG. -/
def modeOperand (a : Word) : Except ResultCode Mode :=
  if a = 0 then .ok .char else if a = 1 then .ok .word else .error .eArg

/-- Form `cp`: 0 to 0x10FFFF, else E_ARG. -/
def cpOperand (a : Word) : Except ResultCode CP :=
  if a ≤ 0x10FFFF then .ok a else .error .eArg

/-- Form `bit`: 0 or 1, else E_TABLE (a non-binary digit in a code string). -/
def bitOperand (a : Word) : Except ResultCode Bit :=
  if a = 0 then .ok false else if a = 1 then .ok true else .error .eTable

/-- Form `pad`: 0 to 7, else E_TABLE. -/
def padOperand (a : Word) : Except ResultCode (Fin 8) :=
  if h : a.toNat < 8 then .ok ⟨a.toNat, h⟩ else .error .eTable

/-- Form `byte`: 0 to 0xFF, else E_ARG. -/
def byteOperand (a : Word) : Except ResultCode Byte :=
  if a ≤ 0xFF then .ok (a.setWidth 8) else .error .eArg

/-- Forms `idx` and `sel`: the element of `l` at the operand, or E_INDEX when the operand is at or
beyond the list's length (also 45_encoder_readout R240). -/
def indexOperand {α : Type} (l : List α) (a : Word) : Except ResultCode α :=
  match l[a.toNat]? with
  | some v => .ok v
  | none => .error .eIndex

/-- `IS_ALPHA` of the class ASCII_LETTERS (00_scope R10). -/
def asciiLetter (c : CP) : Bool :=
  decide ((0x41 ≤ c ∧ c ≤ 0x5A) ∨ (0x61 ≤ c ∧ c ≤ 0x7A))

/-- `IS_ALPHA` of the configured class (00_scope R10). -/
def isAlpha (k : AlphaClass) (c : CP) : Bool :=
  match k with
  | .asciiLetters => asciiLetter c
  | .custom _ ranges => ranges.any fun r => decide (r.1 ≤ c ∧ c ≤ r.2)

/-- The value CFG_ALPHA reports for a class (10_state R38). -/
def alphaCode : AlphaClass → Word
  | .asciiLetters => 0
  | .custom code _ => code

end Sys2Proof.Machine
end

