-- ==== Sys2Proof/Machine/Ops.lean ====
section
/-! DEFINITION. The operations the commands share: how a command ends (40_control R131, R132), the
state gate (R133), the growth of an internal memory (20_memory R79), and reset (70_reset R400). -/

namespace Sys2Proof.Machine

/-- `complete(v)` (40_control R131): success with result `v`, reported from stage `st`. -/
def complete (st : Stage) (v : Word) (s : State) : State := s.setReport v .ok st

/-- The two units (30_encoding R103). -/
inductive CmdUnit where
  | encoder
  | decoder
deriving DecidableEq, Repr

/-- The entry of a unit into ERROR (40_control R132, 60_exceptions R363): unless it is there
already, the unit's state becomes ERROR and its ERR register records the cause; a unit already in
ERROR keeps its first cause. The unit's other fields, undefined in ERROR (10_state R49, R63), stay
as they were before the command (DESIGN CHOICE, log 10). -/
def enterError (u : CmdUnit) (rc : ResultCode) (st : Stage) (s : State) : State :=
  match u with
  | .encoder =>
    if s.enc.state = .error then s
    else (s.setEnc { s.enc with state := .error }).setEncErr (errWord st rc)
  | .decoder =>
    if s.dec.state = .error then s
    else (s.setDec { s.dec with state := .error }).setDecErr (errWord st rc)

/-- `raise E_X(st)` (40_control R132): the ONE way a unit command fails, and the block's only
exception. There is no vector and no handler (60_exceptions R363), and no return from it (R367):
`ENC_START`, `DEC_START`, `SRESET` or reset begin again. -/
def raise (u : CmdUnit) (rc : ResultCode) (st : Stage) (s : State) : State :=
  (enterError u rc st s).setReport 0 rc st

/-- A command of the encoder unit: the state gate REQUIRE(`states`) (40_control R133), then the
command's own effect on E, which ends in `complete` or in `raise` from the command's stage. -/
def encCommand (st : Stage) (states : List EncState)
    (body : Encoder → Except ResultCode (Word × Encoder)) (s : State) : State :=
  if s.enc.state ∈ states then
    match body s.enc with
    | .ok (v, e) => complete st v (s.setEnc e)
    | .error rc => raise .encoder rc st s
  else raise .encoder .eState st s

/-- A command of the decoder unit, like `encCommand`. -/
def decCommand (st : Stage) (states : List DecState)
    (body : Decoder → Except ResultCode (Word × Decoder)) (s : State) : State :=
  if s.dec.state ∈ states then
    match body s.dec with
    | .ok (v, d) => complete st v (s.setDec d)
    | .error rc => raise .decoder rc st s
  else raise .decoder .eState st s

/-- The encoder readout frame (45_encoder_readout R240): gate, read, RESULT; no field of E is
written. -/
def encReadout (states : List EncState) (read : Encoder → Except ResultCode Word) (s : State) :
    State :=
  encCommand .readout states (fun e => (read e).map fun v => (v, e)) s

/-- The decoder readout frame (48_decoder_readout R344). -/
def decReadout (states : List DecState) (read : Decoder → Except ResultCode Word) (s : State) :
    State :=
  decCommand .readout states (fun d => (read d).map fun v => (v, d)) s

/-- The append of one element to an internal memory that holds at most `cap` (20_memory R79): a
full list is E_CAPACITY. -/
def appendCapped {α : Type} (cap : Nat) (v : α) (l : List α) : Except ResultCode (List α) :=
  if l.length = cap then .error .eCapacity else .ok (l ++ [v])

/-- What the engine does with an illegal command word (40_control R134). It belongs to no unit, so
it touches neither unit nor ERR register. -/
def illegal (s : State) : State := s.setReport 0 .eIllegal .control

/-- The reset step (70_reset_and_hazards R400): PENDING and every register cleared, both units in
IDLE. The unspecified fields of E and D take the empty values of the spec's model (10_state R64;
DESIGN CHOICE, log 8). The parameters, the moves still to come and what the host has read are not
the block's state and stay. -/
def hardReset (s : State) : State :=
  { State.reset with cfg := s.cfg, moves := s.moves, obs := s.obs }

/-! The internal memories within their capacities (10_state R40, R55; 20_memory R79). This is what
"the memory is well formed" means for this block, which has no byte-addressed memory (log 22). -/

/-- The capacity column of 10_state R40. -/
def Encoder.memoryWf (c : Config) (e : Encoder) : Bool :=
  decide (e.sym.length ≤ c.nSym) && e.sym.all (fun s => decide (s.length ≤ c.wMax)) &&
  decide (e.freq.length ≤ c.nSym) && decide (e.stream.length ≤ c.streamCap) &&
  decide (e.word.length ≤ c.wMax) && decide (e.node.length ≤ 2 * c.nSym - 1) &&
  decide (e.code.length ≤ c.nSym) && e.code.all (fun k => decide (k.length ≤ c.maxCodeLen)) &&
  decide (e.bytes.length ≤ c.byteCap)

/-- The capacity column of 10_state R55. -/
def Decoder.memoryWf (c : Config) (d : Decoder) : Bool :=
  decide (d.sym.length ≤ c.nSym) && d.sym.all (fun s => decide (s.length ≤ c.wMax)) &&
  decide (d.psym.length ≤ c.wMax) && decide (d.pcode.length ≤ c.maxCodeLen) &&
  decide (d.node.length ≤ c.dnodeCap) && decide (d.bytes.length ≤ c.byteCap) &&
  decide (d.out.length ≤ c.outCap)

/-- Every internal memory of the block is within its capacity. -/
def State.memoryWf (s : State) : Bool := s.enc.memoryWf s.cfg && s.dec.memoryWf s.cfg

end Sys2Proof.Machine
end

