-- ==== Sys2Proof/Machine/BitPacker.lean ====
section
/-! DEFINITION. The bit packer (44_bit_packer R220) and the bit order of the packed stream
(20_memory R78). -/

namespace Sys2Proof.Machine

/-- The codes of the whole symbol stream, concatenated (44_bit_packer R220). -/
def streamBits (code : List Code) (stream : List Nat) : List Bit :=
  stream.flatMap fun i => code.getD i []

/-- `P = (8 - (L mod 8)) mod 8` (44_bit_packer R220). -/
def padCount (len : Nat) : Fin 8 := Fin.ofNat 8 (8 - len % 8)

/-- Eight bits as a byte, the first in bit 7 (20_memory R78). -/
def byteOfBits (b7 b6 b5 b4 b3 b2 b1 b0 : Bit) : Byte :=
  BitVec.ofBool b7 ++ BitVec.ofBool b6 ++ BitVec.ofBool b5 ++ BitVec.ofBool b4 ++
    BitVec.ofBool b3 ++ BitVec.ofBool b2 ++ BitVec.ofBool b1 ++ BitVec.ofBool b0

/-- The bytes of a bit sequence whose length is a multiple of 8, in stream order (20_memory R78). -/
def packBits : List Bit → List Byte
  | b7 :: b6 :: b5 :: b4 :: b3 :: b2 :: b1 :: b0 :: rest =>
    byteOfBits b7 b6 b5 b4 b3 b2 b1 b0 :: packBits rest
  | _ => []

/-- The effect of ENC_PACK on E (44_bit_packer R220). -/
def encPackBody (c : Config) (e : Encoder) : Except ResultCode (Word × Encoder) :=
  let bits := streamBits e.code e.stream
  let p := padCount bits.length
  let b := (bits.length + p.val) / 8
  if b > c.byteCap then .error .eCapacity
  else
    .ok (countWord b,
      { e with bytes := packBits (bits ++ List.replicate p.val false), pad := p, state := .packed })

/-- ENC_PACK (44_bit_packer R220). -/
def execEncPack (s : State) : Host.Outcome State Fault Refusal :=
  .next (encCommand .packing [.assigned] (encPackBody s.cfg) s)

end Sys2Proof.Machine
end

