-- ==== Sys2Proof/Machine/TableLoader.lean ====
section
/-! DEFINITION. The symbol-table loader and tree reconstructor (46_table_loader R270 to R278). -/

namespace Sys2Proof.Machine

/-- A decode-tree node with no child and no symbol. -/
def bareNode : DecNode := ⟨none, none, none⟩

/-- The fields of D as DEC_START sets them (46_table_loader R270). -/
def freshDecoder : Decoder := { Decoder.empty with state := .load, node := [bareNode] }

/-- DEC_START (46_table_loader R270): legal in every decoder state. -/
def execDecStart (s : State) : Host.Outcome State Fault Refusal :=
  .next (complete .artifactLoad 0 ((s.setDec freshDecoder).setDecErr 0))

/-- The effect of DEC_ADD_CP on D (46_table_loader R271). -/
def decAddCpBody (c : Config) (a : Word) (d : Decoder) : Except ResultCode (Word × Decoder) :=
  (cpOperand a).bind fun cp =>
    (appendCapped c.wMax cp d.psym).map fun l => (0, { d with psym := l })

/-- DEC_ADD_CP (46_table_loader R271). -/
def execDecAddCp (s : State) : Host.Outcome State Fault Refusal :=
  .next (decCommand .artifactLoad [.load] (decAddCpBody s.cfg s.arg0) s)

/-- The effect of DEC_ADD_BIT on D (46_table_loader R272). -/
def decAddBitBody (c : Config) (a : Word) (d : Decoder) : Except ResultCode (Word × Decoder) :=
  (bitOperand a).bind fun b =>
    (appendCapped c.maxCodeLen b d.pcode).map fun l => (0, { d with pcode := l })

/-- DEC_ADD_BIT (46_table_loader R272). -/
def execDecAddBit (s : State) : Host.Outcome State Fault Refusal :=
  .next (decCommand .artifactLoad [.load] (decAddBitBody s.cfg s.arg0) s)

/-- The child of node `k` for bit `b`: `c0` for 0 and `c1` for 1 (10_state R59). -/
def childOf (nodes : List DecNode) (k : Nat) (b : Bit) : Option Nat :=
  match nodes[k]? with
  | some n => if b then n.c1 else n.c0
  | none => none

/-- The entry index of a leaf, NONE for an internal node (10_state R59). -/
def leafOf (nodes : List DecNode) (k : Nat) : Option Nat :=
  match nodes[k]? with
  | some n => n.leaf
  | none => none

/-- `DESCEND(c)` from node `k` after `d` bits (46_table_loader R274): where the code leaves the
tree, or E_TABLE when it meets a leaf or ends at an internal node. -/
def descend (nodes : List DecNode) : Nat → Nat → Code → Except ResultCode (Nat × Nat)
  | _, _, [] => .error .eTable
  | k, d, b :: rest =>
    match childOf nodes k b with
    | none => .ok (k, d)
    | some nx => if (leafOf nodes nx).isSome then .error .eTable else descend nodes nx (d + 1) rest

/-- A node with its child for bit `b` set to `m`. -/
def DecNode.setChild (b : Bit) (m : Nat) (n : DecNode) : DecNode :=
  if b then { n with c1 := some m } else { n with c0 := some m }

/-- The loop of DEC_COMMIT (46_table_loader R273): one new node per remaining bit of the code,
linked below node `k`; the last one is the leaf of entry `j`. -/
def insertPath (j : Nat) : List DecNode → Nat → Code → List DecNode
  | nodes, _, [] => nodes
  | nodes, k, b :: rest =>
    let grown := nodes ++ [⟨none, none, if rest = [] then some j else none⟩]
    insertPath j (grown.modify k (DecNode.setChild b nodes.length)) nodes.length rest

/-- The effect of DEC_COMMIT on D, its checks in order (46_table_loader R273, R275). -/
def decCommitBody (c : Config) (d : Decoder) : Except ResultCode (Word × Decoder) :=
  if d.psym = [] then .error .eTable
  else if d.pcode = [] then .error .eTable
  else if d.psym ∈ d.sym then .error .eTable
  else
    (descend d.node 0 0 d.pcode).bind fun (k, n) =>
      if d.sym.length = c.nSym then .error .eCapacity
      else if d.node.length + (d.pcode.length - n) > c.dnodeCap then .error .eCapacity
      else
        .ok (countWord d.sym.length,
          { d with
            node  := insertPath d.sym.length d.node k (d.pcode.drop n)
            sym   := d.sym ++ [d.psym]
            psym  := []
            pcode := [] })

/-- DEC_COMMIT (46_table_loader R273). -/
def execDecCommit (s : State) : Host.Outcome State Fault Refusal :=
  .next (decCommand .artifactLoad [.load] (decCommitBody s.cfg) s)

/-- The effect of DEC_SET_PAD on D (46_table_loader R277). -/
def decSetPadBody (a : Word) (d : Decoder) : Except ResultCode (Word × Decoder) :=
  (padOperand a).map fun p => (0, { d with pad := p, padValid := true })

/-- DEC_SET_PAD (46_table_loader R277). -/
def execDecSetPad (s : State) : Host.Outcome State Fault Refusal :=
  .next (decCommand .artifactLoad [.load] (decSetPadBody s.arg0) s)

/-- The effect of DEC_PUSH_BYTE on D (46_table_loader R278). -/
def decPushByteBody (c : Config) (a : Word) (d : Decoder) : Except ResultCode (Word × Decoder) :=
  (byteOperand a).bind fun v =>
    (appendCapped c.byteCap v d.bytes).map fun l => (0, { d with bytes := l })

/-- DEC_PUSH_BYTE (46_table_loader R278). -/
def execDecPushByte (s : State) : Host.Outcome State Fault Refusal :=
  .next (decCommand .artifactLoad [.load] (decPushByteBody s.cfg s.arg0) s)

end Sys2Proof.Machine
end

