-- ==== Sys2Proof/Machine/BitstreamWalker.lean ====
section
/-! DEFINITION. The bit-stream walker (47_bitstream_walker R310 to R312). -/

namespace Sys2Proof.Machine

/-- The bits of a byte in stream order: bit 7 first (20_memory R78, 47_bitstream_walker R311). -/
def bitsOfByte (v : Byte) : List Bit :=
  [v.getLsbD 7, v.getLsbD 6, v.getLsbD 5, v.getLsbD 4, v.getLsbD 3, v.getLsbD 2, v.getLsbD 1,
   v.getLsbD 0]

/-- The valid bits of the loaded stream: all but the last `P` (47_bitstream_walker R311). -/
def validBits (d : Decoder) : List Bit :=
  (d.bytes.flatMap bitsOfByte).take (8 * d.bytes.length - d.pad.val)

/-- The table checks of DEC_RUN (47_bitstream_walker R310): an entry begun and not committed, or no
padding count loaded. -/
def tableIncomplete (d : Decoder) : Bool :=
  d.psym != [] || d.pcode != [] || !d.padValid

/-- The walk of DEC_RUN over the bits from node `k`, with the output and the count so far
(47_bitstream_walker R310, R312). -/
def walk (c : Config) (d : Decoder) : List Bit → Nat → List CP → Nat →
    Except ResultCode (List CP × Nat)
  | [], k, out, cnt => if k ≠ 0 then .error .eCorrupt else .ok (out, cnt)
  | b :: bits, k, out, cnt =>
    match childOf d.node k b with
    | none => .error .eCorrupt
    | some nx =>
      match leafOf d.node nx with
      | none => walk c d bits nx out cnt
      | some j =>
        if out.length + (d.sym.getD j []).length > c.outCap then .error .eCapacity
        else walk c d bits 0 (out ++ d.sym.getD j []) (cnt + 1)

/-- The effect of DEC_RUN on D after its table checks (47_bitstream_walker R310). -/
def decRunBody (c : Config) (d : Decoder) : Except ResultCode (Word × Decoder) :=
  if 8 * d.bytes.length < d.pad.val then .error .eCorrupt
  else
    (walk c d (validBits d) 0 [] 0).map fun r =>
      (countWord r.2, { d with out := r.1, nout := r.2, state := .done })

/-- DEC_RUN (47_bitstream_walker R310): the state gate, then the table checks, which report stage
ARTIFACT_LOAD, then the walk, which reports stage DECODE. -/
def execDecRun (s : State) : Host.Outcome State Fault Refusal :=
  .next (if s.dec.state = .load ∧ tableIncomplete s.dec then raise .decoder .eTable .artifactLoad s
    else decCommand .decode [.load] (decRunBody s.cfg) s)

end Sys2Proof.Machine
end

