-- ==== Sys2Proof/Machine/TreeBuilder.lean ====
section
/-! DEFINITION. The tree builder (42_tree_builder R180 to R182). -/

namespace Sys2Proof.Machine

/-- The weight a node carries (10_state R46). -/
def EncNode.weight : EncNode → Nat
  | .leaf _ w => w
  | .internal _ _ w => w

/-- `w(k)`, the weight of node k (42_tree_builder R182). Every id the builder asks for is a node's;
0 elsewhere (log 16). -/
def weightOf (nodes : List EncNode) (k : Nat) : Nat :=
  match nodes[k]? with
  | some n => n.weight
  | none => 0

/-- The order of POPMIN: by weight, and among equal weights by id (42_tree_builder R182). -/
def lighter (nodes : List EncNode) (a b : Nat) : Bool :=
  decide (weightOf nodes a < weightOf nodes b ∨ (weightOf nodes a = weightOf nodes b ∧ a ≤ b))

/-- The id in `k :: q` with the smallest pair `(w, id)`. -/
def minId (nodes : List EncNode) (k : Nat) : List Nat → Nat
  | [] => k
  | j :: q => minId nodes (if lighter nodes k j then k else j) q

/-- `POPMIN(Q)` (42_tree_builder R182): the smallest id and the queue without it. -/
def popMin (nodes : List EncNode) : List Nat → Option (Nat × List Nat)
  | [] => none
  | k :: q => some (minId nodes k q, (k :: q).erase (minId nodes k q))

/-- One merge (42_tree_builder R180, R182): of the two nodes removed, the first becomes the right
child and the second the left. `none` when the queue holds fewer than two ids. -/
def mergeStep (nodes : List EncNode) (q : List Nat) : Option (List EncNode × List Nat) :=
  match popMin nodes q with
  | none => none
  | some (x, q1) =>
    match popMin nodes q1 with
    | none => none
    | some (y, q2) =>
      some (nodes ++ [.internal y x (weightOf nodes x + weightOf nodes y)], q2 ++ [nodes.length])

/-- The merges of ENC_BUILD's `while |Q| >= 2`. Each shortens the queue by one, so fuel equal to
the queue's length is enough. -/
def mergeAll : Nat → List EncNode → List Nat → List EncNode × List Nat
  | 0, nodes, q => (nodes, q)
  | fuel + 1, nodes, q =>
    match mergeStep nodes q with
    | some (nodes', q') => mergeAll fuel nodes' q'
    | none => (nodes, q)

/-- The leaves, one per symbol index, weighted by the counts (42_tree_builder R181). -/
def leafNodes (n : Nat) (freq : List Nat) : List EncNode :=
  (List.range n).map fun i => .leaf i (freq.getD i 0)

/-- The tree of a frequency table with `n` symbols: its nodes and its root (42_tree_builder R180). -/
def buildTree (n : Nat) (freq : List Nat) : List EncNode × Option Nat :=
  let r := mergeAll n (leafNodes n freq) (List.range n)
  (r.1, r.2.head?)

/-- The effect of ENC_BUILD on E (42_tree_builder R180). -/
def encBuildBody (e : Encoder) : Except ResultCode (Word × Encoder) :=
  let t := buildTree e.sym.length e.freq
  .ok (countWord t.1.length, { e with node := t.1, root := t.2, state := .built })

/-- ENC_BUILD (42_tree_builder R180). -/
def execEncBuild (s : State) : Host.Outcome State Fault Refusal :=
  .next (encCommand .treeBuild [.analyzed] encBuildBody s)

end Sys2Proof.Machine
end

