-- ==== Sys2Proof/Machine/CodeAssigner.lean ====
section
/-! DEFINITION. The code assigner (43_code_assigner R200 to R202). -/

namespace Sys2Proof.Machine

/-- The leaves below node `k`, each as its symbol index and its `PATH`, where `path` is
`PATH(k)`: bit 0 to the left child and bit 1 to the right (43_code_assigner R201). A path visits a
node at most once, so fuel equal to the number of nodes is enough. -/
def leafPaths (nodes : List EncNode) : Nat → Nat → Code → List (Nat × Code)
  | 0, _, _ => []
  | fuel + 1, k, path =>
    match nodes[k]? with
    | some (.leaf i _) => [(i, path)]
    | some (.internal l r _) =>
      leafPaths nodes fuel l (path ++ [false]) ++ leafPaths nodes fuel r (path ++ [true])
    | none => []

/-- Every leaf of the tree with its path from the root. -/
def treePaths (nodes : List EncNode) (root : Option Nat) : List (Nat × Code) :=
  match root with
  | some r => leafPaths nodes nodes.length r []
  | none => []

/-- The code table of `n` symbols (43_code_assigner R200): the single bit 0 when the root is itself
a leaf (R202), else the leaf's path. -/
def codeTable (n : Nat) (nodes : List EncNode) (root : Option Nat) : List Code :=
  if n = 1 then [[false]]
  else (List.range n).map fun i => ((treePaths nodes root).lookup i).getD []

/-- The longest code length, 0 for an empty table (43_code_assigner R200). -/
def longestCode (code : List Code) : Nat := code.foldl (fun m k => max m k.length) 0

/-- The effect of ENC_ASSIGN on E (43_code_assigner R200). -/
def encAssignBody (c : Config) (e : Encoder) : Except ResultCode (Word × Encoder) :=
  let code := codeTable e.sym.length e.node e.root
  if longestCode code > c.maxCodeLen then .error .eCapacity
  else .ok (countWord (longestCode code), { e with code := code, state := .assigned })

/-- ENC_ASSIGN (43_code_assigner R200). -/
def execEncAssign (s : State) : Host.Outcome State Fault Refusal :=
  .next (encCommand .codeAssign [.built] (encAssignBody s.cfg) s)

end Sys2Proof.Machine
end

