-- ==== Sys2Proof/Machine/Control.lean ====
section
/-! DEFINITION. The control commands (40_control R135, R136). -/

namespace Sys2Proof.Machine

/-- NOP (40_control R135). -/
def execNop (s : State) : Host.Outcome State Fault Refusal := .next (complete .control 0 s)

/-- Both units back to IDLE with their ERR registers cleared. The other fields of E and D become
undefined (10_state R49, R63) and stay as they were (DESIGN CHOICE, log 9). -/
def idleUnits (s : State) : State :=
  (((s.setEnc { s.enc with state := .idle }).setDec { s.dec with state := .idle }).setEncErr
    0).setDecErr 0

/-- SRESET (40_control R136). -/
def execSreset (s : State) : Host.Outcome State Fault Refusal :=
  .next (complete .control 0 (idleUnits s))

end Sys2Proof.Machine
end

