-- ==== Sys2Proof/Machine/DecoderReadout.lean ====
section
/-! DEFINITION. The decoder readouts (48_decoder_readout R340 to R344). -/

namespace Sys2Proof.Machine

/-- DEC_RD_NSYM (48_decoder_readout R340). -/
def execDecRdNsym (s : State) : Host.Outcome State Fault Refusal :=
  .next (decReadout [.done] (fun d => .ok (countWord d.nout)) s)

/-- DEC_RD_OUTLEN (48_decoder_readout R341). -/
def execDecRdOutlen (s : State) : Host.Outcome State Fault Refusal :=
  .next (decReadout [.done] (fun d => .ok (countWord d.out.length)) s)

/-- DEC_RD_OUTCP (48_decoder_readout R342). -/
def execDecRdOutcp (s : State) : Host.Outcome State Fault Refusal :=
  .next (decReadout [.done] (fun d => indexOperand d.out s.arg0) s)

/-- DEC_RD_NENT (48_decoder_readout R343). -/
def execDecRdNent (s : State) : Host.Outcome State Fault Refusal :=
  .next (decReadout [.load, .done] (fun d => .ok (countWord d.sym.length)) s)

end Sys2Proof.Machine
end

