-- ==== Sys2Proof/Machine/EncoderReadout.lean ====
section
/-! DEFINITION. The encoder readouts (45_encoder_readout R240 to R250). -/

namespace Sys2Proof.Machine

/-- The states of the rows that read the symbol table and the stream (30_encoding R103). -/
def tableStates : List EncState := [.analyzed, .built, .assigned, .packed]

/-- The states of the rows that read the code table (30_encoding R103). -/
def codeStates : List EncState := [.assigned, .packed]

/-- ENC_RD_NSYM (45_encoder_readout R241). -/
def execEncRdNsym (s : State) : Host.Outcome State Fault Refusal :=
  .next (encReadout tableStates (fun e => .ok (countWord e.sym.length)) s)

/-- ENC_RD_SYMLEN (45_encoder_readout R242). -/
def execEncRdSymlen (s : State) : Host.Outcome State Fault Refusal :=
  .next (encReadout tableStates
    (fun e => (indexOperand e.sym s.arg0).map fun y => countWord y.length) s)

/-- ENC_RD_SYMCP (45_encoder_readout R243): `idx` is checked before `sel`. -/
def execEncRdSymcp (s : State) : Host.Outcome State Fault Refusal :=
  .next (encReadout tableStates
    (fun e => (indexOperand e.sym s.arg0).bind fun y => indexOperand y s.arg1) s)

/-- ENC_RD_FREQ (45_encoder_readout R244): the index is checked against E.sym, with which E.freq is
aligned (10_state R40). -/
def execEncRdFreq (s : State) : Host.Outcome State Fault Refusal :=
  .next (encReadout tableStates
    (fun e => (indexOperand e.sym s.arg0).map fun _ => countWord (e.freq.getD s.arg0.toNat 0)) s)

/-- ENC_RD_CODELEN (45_encoder_readout R245): the index is checked against E.sym. -/
def execEncRdCodelen (s : State) : Host.Outcome State Fault Refusal :=
  .next (encReadout codeStates
    (fun e => (indexOperand e.sym s.arg0).map fun _ =>
      countWord (e.code.getD s.arg0.toNat []).length) s)

/-- ENC_RD_CODEBIT (45_encoder_readout R246): position 0 is the bit nearest the root. -/
def execEncRdCodebit (s : State) : Host.Outcome State Fault Refusal :=
  .next (encReadout codeStates
    (fun e => (indexOperand e.sym s.arg0).bind fun _ =>
      (indexOperand (e.code.getD s.arg0.toNat []) s.arg1).map bitWord) s)

/-- ENC_RD_NSTREAM (45_encoder_readout R247). -/
def execEncRdNstream (s : State) : Host.Outcome State Fault Refusal :=
  .next (encReadout tableStates (fun e => .ok (countWord e.stream.length)) s)

/-- ENC_RD_NBYTES (45_encoder_readout R248). -/
def execEncRdNbytes (s : State) : Host.Outcome State Fault Refusal :=
  .next (encReadout [.packed] (fun e => .ok (countWord e.bytes.length)) s)

/-- ENC_RD_BYTE (45_encoder_readout R249). -/
def execEncRdByte (s : State) : Host.Outcome State Fault Refusal :=
  .next (encReadout [.packed] (fun e => (indexOperand e.bytes s.arg0).map byteWord) s)

/-- ENC_RD_PAD (45_encoder_readout R250). -/
def execEncRdPad (s : State) : Host.Outcome State Fault Refusal :=
  .next (encReadout [.packed] (fun e => .ok (countWord e.pad.val)) s)

end Sys2Proof.Machine
end

