-- ==== Sys2Proof/Machine/FrequencyAnalyzer.lean ====
section
/-! DEFINITION. The frequency analyser (41_frequency_analyzer R150 to R155). -/

namespace Sys2Proof.Machine

/-- The fields of E as ENC_START sets them (41_frequency_analyzer R150). -/
def freshEncoder (m : Mode) : Encoder :=
  { Encoder.empty with state := .loading, mode := m }

/-- ENC_START (41_frequency_analyzer R150): legal in every encoder state. -/
def execEncStart (s : State) : Host.Outcome State Fault Refusal :=
  match modeOperand s.arg0 with
  | .ok m => .next (complete .analysis 0 ((s.setEnc (freshEncoder m)).setEncErr 0))
  | .error rc => .next (raise .encoder rc .analysis s)

/-- The count of one occurrence of the symbol with index `i`: the last two lines of EMIT
(41_frequency_analyzer R151). -/
def countOccurrence (i : Nat) (e : Encoder) : Encoder :=
  { e with freq := e.freq.modify i (· + 1), stream := e.stream ++ [i] }

/-- `EMIT(s)` (41_frequency_analyzer R151): a symbol is matched by exact value equality, and a new
one takes the next index. -/
def emit (c : Config) (s : Symbol) (e : Encoder) : Except ResultCode Encoder :=
  if e.stream.length = c.streamCap then .error .eCapacity
  else
    match e.sym.idxOf? s with
    | some i => .ok (countOccurrence i e)
    | none =>
      if e.sym.length = c.nSym then .error .eCapacity
      else
        .ok (countOccurrence e.sym.length { e with sym := e.sym ++ [s], freq := e.freq ++ [0] })

/-- The emission of the pending alphabetic run, if there is one (41_frequency_analyzer R153). -/
def emitWord (c : Config) (e : Encoder) : Except ResultCode Encoder :=
  if e.word = [] then .ok e
  else
    match emit c e.word e with
    | .ok e' => .ok { e' with word := [] }
    | .error rc => .error rc

/-- One code point of the text, after its range check (41_frequency_analyzer R154). -/
def pushCodePoint (c : Config) (cp : CP) (e : Encoder) : Except ResultCode Encoder :=
  match e.mode with
  | .char => emit c [cp] e
  | .word =>
    if isAlpha c.alpha cp then
      match appendCapped c.wMax cp e.word with
      | .ok w => .ok { e with word := w }
      | .error rc => .error rc
    else
      match emitWord c e with
      | .ok e' => emit c [cp] e'
      | .error rc => .error rc

/-- The effect of ENC_PUSH on E (41_frequency_analyzer R154). -/
def encPushBody (c : Config) (a : Word) (e : Encoder) : Except ResultCode (Word × Encoder) :=
  match cpOperand a with
  | .ok cp =>
    match pushCodePoint c cp e with
    | .ok e' => .ok (0, e')
    | .error rc => .error rc
  | .error rc => .error rc

/-- ENC_PUSH (41_frequency_analyzer R154). -/
def execEncPush (s : State) : Host.Outcome State Fault Refusal :=
  .next (encCommand .analysis [.loading] (encPushBody s.cfg s.arg0) s)

/-- The effect of ENC_END on E (41_frequency_analyzer R155). -/
def encEndBody (c : Config) (e : Encoder) : Except ResultCode (Word × Encoder) :=
  match emitWord c e with
  | .ok e' => .ok (countWord e'.sym.length, { e' with state := .analyzed })
  | .error rc => .error rc

/-- ENC_END (41_frequency_analyzer R155). -/
def execEncEnd (s : State) : Host.Outcome State Fault Refusal :=
  .next (encCommand .analysis [.loading] (encEndBody s.cfg) s)

end Sys2Proof.Machine
end

