-- ==== Sys2Proof/Machine/Dispatch.lean ====
section
/-! DEFINITION. One arm per command: the rule named for its opcode in 30_encoding R103. -/

namespace Sys2Proof.Machine

def exec (i : Instr) (s : State) : Host.Outcome State Fault Refusal :=
  match i with
  | .nop => Sys2Proof.Machine.execNop s
  | .sreset => Sys2Proof.Machine.execSreset s
  | .encStart => Sys2Proof.Machine.execEncStart s
  | .encPush => Sys2Proof.Machine.execEncPush s
  | .encEnd => Sys2Proof.Machine.execEncEnd s
  | .encBuild => Sys2Proof.Machine.execEncBuild s
  | .encAssign => Sys2Proof.Machine.execEncAssign s
  | .encPack => Sys2Proof.Machine.execEncPack s
  | .encRdNsym => Sys2Proof.Machine.execEncRdNsym s
  | .encRdSymlen => Sys2Proof.Machine.execEncRdSymlen s
  | .encRdSymcp => Sys2Proof.Machine.execEncRdSymcp s
  | .encRdFreq => Sys2Proof.Machine.execEncRdFreq s
  | .encRdCodelen => Sys2Proof.Machine.execEncRdCodelen s
  | .encRdCodebit => Sys2Proof.Machine.execEncRdCodebit s
  | .encRdNstream => Sys2Proof.Machine.execEncRdNstream s
  | .encRdNbytes => Sys2Proof.Machine.execEncRdNbytes s
  | .encRdByte => Sys2Proof.Machine.execEncRdByte s
  | .encRdPad => Sys2Proof.Machine.execEncRdPad s
  | .decStart => Sys2Proof.Machine.execDecStart s
  | .decAddCp => Sys2Proof.Machine.execDecAddCp s
  | .decAddBit => Sys2Proof.Machine.execDecAddBit s
  | .decCommit => Sys2Proof.Machine.execDecCommit s
  | .decSetPad => Sys2Proof.Machine.execDecSetPad s
  | .decPushByte => Sys2Proof.Machine.execDecPushByte s
  | .decRun => Sys2Proof.Machine.execDecRun s
  | .decRdNsym => Sys2Proof.Machine.execDecRdNsym s
  | .decRdOutlen => Sys2Proof.Machine.execDecRdOutlen s
  | .decRdOutcp => Sys2Proof.Machine.execDecRdOutcp s
  | .decRdNent => Sys2Proof.Machine.execDecRdNent s

end Sys2Proof.Machine
end

