-- ==== Sys2Proof/Machine/HostPort.lean ====
section
/-! DEFINITION. The host's accesses to the register window (20_memory R70 to R75; 30_encoding
R116) and the offsets of the registers (10_state R30). -/

namespace Sys2Proof.Machine

/-- The registers of 10_state R30. -/
inductive Reg where
  | id
  | cmd
  | arg0
  | arg1
  | result
  | status
  | encErr
  | decErr
  | capNsym
  | capWmax
  | capStream
  | capCodelen
  | capBytes
  | capDnodes
  | capOut
  | cfgAlpha
deriving DecidableEq, Repr

/-- The offset of a register in the window (10_state R30). -/
def Reg.offset : Reg → Nat
  | .id => 0x00
  | .cmd => 0x04
  | .arg0 => 0x08
  | .arg1 => 0x0C
  | .result => 0x10
  | .status => 0x14
  | .encErr => 0x18
  | .decErr => 0x1C
  | .capNsym => 0x20
  | .capWmax => 0x24
  | .capStream => 0x28
  | .capCodelen => 0x2C
  | .capBytes => 0x30
  | .capDnodes => 0x34
  | .capOut => 0x38
  | .cfgAlpha => 0x3C

/-- The identification constant (10_state R31). -/
def idConstant : Word := 0x48554631

/-- The value `MemRead(off, 4)` returns (20_memory R71): CMD and the reserved offsets read 0, the
capacity registers read the parameters (10_state R38). -/
def registerValue (s : State) (off : Nat) : Word :=
  match off with
  | 0x00 => idConstant
  | 0x04 => 0
  | 0x08 => s.arg0
  | 0x0C => s.arg1
  | 0x10 => s.result
  | 0x14 => s.status
  | 0x18 => s.encErr
  | 0x1C => s.decErr
  | 0x20 => countWord s.cfg.nSym
  | 0x24 => countWord s.cfg.wMax
  | 0x28 => countWord s.cfg.streamCap
  | 0x2C => countWord s.cfg.maxCodeLen
  | 0x30 => countWord s.cfg.byteCap
  | 0x34 => countWord s.cfg.dnodeCap
  | 0x38 => countWord s.cfg.outCap
  | 0x3C => alphaCode s.cfg.alpha
  | _ => 0

/-- The effect of `MemWrite(off, 4, v)` (20_memory R71): CMD latches the command word into PENDING,
ARG0 and ARG1 store it, and a read-only or reserved offset ignores it. -/
def writeRegister (s : State) (off : Nat) (v : Word) : State :=
  match off with
  | 0x04 => s.setPending (some v)
  | 0x08 => s.setArg0 v
  | 0x0C => s.setArg1 v
  | _ => s

/-- The offsets the host may read while BUSY = 1: STATUS, ID, CAP_NSYM to CAP_OUT and CFG_ALPHA
(30_encoding R116). -/
def readableWhileBusy (off : Nat) : Bool :=
  decide (off = 0x14 ∨ off = 0x00 ∨ (0x20 ≤ off ∧ off ≤ 0x3C))

/-- The offset of an address in the window, or none outside it (20_memory R70). -/
def windowOffset (c : Config) (addr : Nat) : Option Nat :=
  if c.hufBase ≤ addr ∧ addr < c.hufBase + 256 then some (addr - c.hufBase) else none

/-- The form every access must have, before its effect: in the window (R70), 32 bits wide (R72) and
naturally aligned (R73). The order of the three is a DESIGN CHOICE (log 11). -/
def hostAccess (addr width : Nat) (s : State)
    (effect : Nat → Host.Outcome State Fault Refusal) : Host.Outcome State Fault Refusal :=
  match windowOffset s.cfg addr with
  | none => .fault .outsideWindow
  | some off =>
    if width ≠ 4 then .refused .accessWidth
    else if off % 4 ≠ 0 then .refused .misaligned
    else effect off

/-- A host read: the value goes to the host, and no state of the block changes (20_memory R75). -/
def hostRead (addr width : Nat) (s : State) : Host.Outcome State Fault Refusal :=
  hostAccess addr width s fun off =>
    if s.busy && !readableWhileBusy off then .refused .busyViolation
    else .next (s.setObs (s.obs ++ [registerValue s off]))

/-- A host write: forbidden while BUSY = 1 (30_encoding R116). -/
def hostWrite (addr width : Nat) (v : Word) (s : State) : Host.Outcome State Fault Refusal :=
  hostAccess addr width s fun off =>
    if s.busy then .refused .busyViolation else .next (writeRegister s off v)

/-- The host step (30_encoding R115). -/
def hostStep (op : HostOp) (s : State) : Host.Outcome State Fault Refusal :=
  match op with
  | .read addr width => hostRead addr width s
  | .write addr width v => hostWrite addr width v s

end Sys2Proof.Machine
end

