-- ==== Sys2Proof/Machine/Engine.lean ====
section
/-! DEFINITION. The engine step (40_control R130) and the choice of the agent that moves
(30_encoding R115). -/

namespace Sys2Proof.Machine

/-- The end of EXECUTE: `PENDING <- NONE`, which clears BUSY (40_control R130). -/
def finishCommand (o : Host.Outcome State Fault Refusal) : Host.Outcome State Fault Refusal :=
  match o with
  | .next s => .next (s.setPending none)
  | .fault f => .fault f
  | .refused r => .refused r

/-- `EXECUTE(w)` (40_control R130): a legal word runs its command's rule, any other is ILLEGAL
(R134), and both complete. -/
def execute (w : Word) (s : State) : Host.Outcome State Fault Refusal :=
  match decode w with
  | .ok i => finishCommand (exec i s)
  | .error _ => finishCommand (.next (illegal s))

/-- The engine step (30_encoding R115): enabled exactly when `PENDING ≠ NONE`. When it is not, the
block is idle and all state holds (60_exceptions R374). -/
def engineStep (s : State) : Host.Outcome State Fault Refusal :=
  match s.pending with
  | some w => execute w s
  | none => .next s

/-- One move of an agent (30_encoding R115). An engine move with nothing pending changes nothing
(DESIGN CHOICE, log 6). -/
def takeMove (m : Move) (s : State) : Host.Outcome State Fault Refusal :=
  match m with
  | .engine => engineStep s
  | .host op => hostStep op s
  | .reset => .next (hardReset s)

/-- The next step of the block: the first scheduled move. With none left the engine carries out a
pending command, since its step is weakly fair (30_encoding R117), and otherwise the block is idle
(60_exceptions R374; log 5). -/
def nextStep (s : State) : Host.Outcome State Fault Refusal :=
  match s.moves with
  | [] => engineStep s
  | m :: rest => takeMove m (s.setMoves rest)

/-- The command word a table row's bits stand for (30_encoding R106). -/
def tableWord (nbits w : Nat) : Word := BitVec.ofNat 32 (w % 2 ^ nbits)

/-- The machine with a command word latched in PENDING and the engine to move next: how a command
comes to run without the host's CMD write (log 14). -/
def latchWord (s : State) (w : Word) : State :=
  (s.setPending (some w)).setMoves (.engine :: s.moves)

end Sys2Proof.Machine
end

