-- ==== Sys2Proof/Machine/Step.lean ====
section
/-! DEFINITION. One step of the machine. -/

namespace Sys2Proof.Machine

/-- One step: the next agent's move (30_encoding R115). -/
def step (s : State) : Host.Outcome State Fault Refusal := nextStep s

/-- `s` with a table word where the next step takes its command from: PENDING, with the engine to
move. The block fetches nothing (20_memory R83), so this stands for the host's CMD write (log 14). -/
def State.withFetchWord (s : State) (nbits w : Nat) : State := latchWord s (tableWord nbits w)

end Sys2Proof.Machine
end

