-- ==== Sys2Proof/Machine/HostProgram.lean ====
section
/-! DEFINITION. The host syntax of 30_encoding R107 to R109, as the moves it expands to, and the
run of a host program (R118). -/

namespace Sys2Proof.Machine

/-- A line of a host program (30_encoding R107 to R109). `poll n` is a POLL that reads BUSY = 1 `n`
times before the engine carries the command out (log 21). A command's operands are written only
when they are given. -/
inductive HostLine where
  | wr (r : Reg) (v : Word)
  | rd (r : Reg)
  | poll (n : Nat)
  | command (i : Instr) (a0 a1 : Option Word) (n : Nat)
  | res
  | okCheck
  | rc
deriving DecidableEq, Repr

/-- `WR <reg>, v` (30_encoding R107). -/
def writeMove (c : Config) (r : Reg) (v : Word) : Move :=
  .host (.write (c.hufBase + r.offset) 4 v)

/-- `RD <reg>` (30_encoding R107). -/
def readMove (c : Config) (r : Reg) : Move := .host (.read (c.hufBase + r.offset) 4)

/-- `POLL` (30_encoding R107): reads of STATUS until BUSY reads 0. The engine's step stands where it
falls between them. -/
def pollMoves (c : Config) (n : Nat) : List Move :=
  List.replicate n (readMove c .status) ++ [.engine, readMove c .status]

/-- The moves of one line (30_encoding R107 to R109). -/
def HostLine.moves (c : Config) : HostLine → List Move
  | .wr r v => [writeMove c r v]
  | .rd r => [readMove c r]
  | .poll n => pollMoves c n
  | .command i a0 a1 n =>
    (a0.toList.map (writeMove c .arg0)) ++ (a1.toList.map (writeMove c .arg1)) ++
      [writeMove c .cmd (encode i)] ++ pollMoves c n
  | .res => [readMove c .result]
  | .okCheck => [readMove c .status]
  | .rc => [readMove c .status]

/-- The premise `OK?` states about the STATUS value read: `s[15:8] = 0` (30_encoding R109). -/
def statusOk (w : Word) : Bool := w.extractLsb' 8 8 == 0

/-- The code `RC` binds from the STATUS value read: `s[15:8]` (30_encoding R109). -/
def statusRc (w : Word) : BitVec 8 := w.extractLsb' 8 8

/-- A machine with a host program still to be run. -/
def State.withProgram (s : State) (p : List HostLine) : State :=
  s.setMoves (p.flatMap (HostLine.moves s.cfg))

/-- A move is an operation of the host. -/
def Move.isHost : Move → Bool
  | .host _ => true
  | .engine => false
  | .reset => false

/-- A host program's run has ended (30_encoding R118): the host has taken its last operation and
`PENDING = NONE`. Engine and reset moves may still stand in the list; they come after the run. -/
def State.ended (s : State) : Bool := !s.moves.any Move.isHost && !s.busy

/-- The observation of a run (30_encoding R118): the values the host's reads returned and the final
state, once the run has ended. -/
def State.observation (s : State) : Option (List Word × State) :=
  if s.ended then some (s.obs, s) else none

/-- A run of at most `n` steps (30_encoding R118). It takes no step from the first state in which it
has ended, so a reset that comes later is no part of it, and it stops at a fault or a refusal. -/
def runProgram : Nat → State → Host.Outcome State Fault Refusal
  | 0, s => .next s
  | n + 1, s =>
    if s.ended then .next s
    else
      match step s with
      | .next t => runProgram n t
      | .fault f => .fault f
      | .refused r => .refused r

end Sys2Proof.Machine
end

