-- ==== Sys2Proof/Safety.lean ====
section
/-! DEFINITION. What claims about HUF1 are stated in: a safe step, the defined part of a state, the invariants of the units, and the reference tokeniser. -/

namespace Sys2Proof.Machine

/-- A safe step: the machine does not stop. -/
def SafeStep (s : State) : Prop := ∃ t, step s = .next t

/-! The defined part of the state (10_state R49, R63). -/

/-- E with every field that its state leaves undefined replaced by the empty value (10_state R49). -/
def Encoder.defined (e : Encoder) : Encoder :=
  match e.state with
  | .idle => { Encoder.empty with state := .idle }
  | .error => { Encoder.empty with state := .error }
  | .loading => { e with node := [], root := none, code := [], bytes := [], pad := 0 }
  | .analyzed => { e with word := [], node := [], root := none, code := [], bytes := [], pad := 0 }
  | .built => { e with word := [], code := [], bytes := [], pad := 0 }
  | .assigned => { e with word := [], bytes := [], pad := 0 }
  | .packed => { e with word := [] }

/-- D with every field that its state leaves undefined replaced by the empty value (10_state R63). -/
def Decoder.defined (d : Decoder) : Decoder :=
  match d.state with
  | .idle => { Decoder.empty with state := .idle }
  | .error => { Decoder.empty with state := .error }
  | .load => { d with out := [], nout := 0 }
  | .done => d

/-- The state without the values the spec leaves undefined. -/
def State.defined (s : State) : State := (s.setEnc s.enc.defined).setDec s.dec.defined

/-- Two outcomes with the same defined part. -/
def sameDefined : Host.Outcome State Fault Refusal → Host.Outcome State Fault Refusal → Prop
  | .next s, .next t => s.defined = t.defined
  | .fault f, .fault g => f = g
  | .refused r, .refused q => r = q
  | _, _ => False

/-! The invariants. -/

/-- The states in which the symbol table and the stream of E are defined (10_state R49). -/
abbrev Encoder.inRun (e : Encoder) : Prop :=
  e.state = .loading ∨ e.state = .analyzed ∨ e.state = .built ∨ e.state = .assigned ∨
    e.state = .packed

/-- The frequency table and the stream agree (10_state R43, R44, R45): counts aligned with
distinct, non-empty symbols, each the number of its occurrences and at least 1; no pending run in
CHAR mode or after the text has ended. -/
abbrev Encoder.analysisOk (e : Encoder) : Prop :=
  e.inRun →
    e.freq.length = e.sym.length ∧ e.sym.Nodup ∧ (∀ y ∈ e.sym, y ≠ []) ∧
    (∀ p ∈ e.stream, p < e.sym.length) ∧
    (∀ i < e.sym.length, e.freq.getD i 0 = e.stream.count i ∧ 1 ≤ e.stream.count i) ∧
    (e.mode = .char → e.word = []) ∧ (e.state ≠ .loading → e.word = [])

/-- The tree of E reaches every leaf from the root exactly once, and below an internal root no path
is empty (42_tree_builder R186). -/
abbrev Encoder.treeOk (e : Encoder) : Prop :=
  e.state = .built ∨ e.state = .assigned ∨ e.state = .packed →
    ((treePaths e.node e.root).map Prod.fst).Perm (List.range e.sym.length) ∧
    (e.sym.length ≠ 1 → ∀ p ∈ treePaths e.node e.root, p.2 ≠ [])

/-- The code table is aligned with the symbols, non-empty and prefix-free (10_state R47,
43_code_assigner R203). -/
abbrev Encoder.codesOk (e : Encoder) : Prop :=
  e.state = .assigned ∨ e.state = .packed →
    e.code.length = e.sym.length ∧ (∀ k ∈ e.code, k ≠ []) ∧
    e.code.Pairwise fun a b => ¬ a <+: b ∧ ¬ b <+: a

/-- The decode tree is a tree (10_state R57, R59; 46_table_loader R276): node 0 is the root and no
leaf; children have larger ids; a node with a child is no leaf; no node is the child of two; a leaf
names a table entry; every node but the root is a leaf or has a child; the table's symbols are
distinct and non-empty. -/
abbrev Decoder.treeOk (d : Decoder) : Prop :=
  d.state = .load ∨ d.state = .done →
    0 < d.node.length ∧ leafOf d.node 0 = none ∧
    (∀ k < d.node.length, ∀ b : Bool, ∀ m ∈ childOf d.node k b,
      k < m ∧ m < d.node.length ∧ leafOf d.node k = none) ∧
    (∀ k < d.node.length, ∀ k' < d.node.length, ∀ b b' : Bool, ∀ m ∈ childOf d.node k b,
      childOf d.node k' b' = some m → k = k' ∧ b = b') ∧
    (∀ k < d.node.length, ∀ j ∈ leafOf d.node k, j < d.sym.length) ∧
    (∀ k < d.node.length, k ≠ 0 →
      (leafOf d.node k).isSome ∨ (childOf d.node k false).isSome ∨ (childOf d.node k true).isSome) ∧
    d.sym.Nodup ∧ (∀ y ∈ d.sym, y ≠ [])

/-- A unit's ERR register is what a failure writes, `STAGE` in [11:8] and a failure code in [7:0],
while the unit is in ERROR, and 0 otherwise (10_state R37). -/
def errRegisterOk (inError : Prop) (w : Word) : Prop :=
  (inError → ∃ st rc, w = errWord st rc ∧ rc ≠ .ok ∧ rc ≠ .eIllegal) ∧ (¬ inError → w = 0)

/-- Both ERR registers agree with their units' states (10_state R37). -/
def State.errOk (s : State) : Prop :=
  errRegisterOk (s.enc.state = .error) s.encErr ∧ errRegisterOk (s.dec.state = .error) s.decErr

/-! References. -/

/-- `TOKENIZE(mode, t)` (41_frequency_analyzer R152): in CHAR mode one symbol per code point; in
WORD mode neighbours stay in one symbol exactly when both are alphabetic, which cuts the text into
its maximal alphabetic runs and single other code points. -/
def tokenize (k : AlphaClass) (m : Mode) (t : List CP) : List Symbol :=
  match m with
  | .char => t.map fun c => [c]
  | .word => t.splitBy fun a b => isAlpha k a && isAlpha k b

/-- The text the encoder has taken so far: its stream's symbols in order, then the pending run
(41_frequency_analyzer R153, R156). -/
def Encoder.heldText (e : Encoder) : List CP :=
  (e.stream.flatMap fun i => e.sym.getD i []) ++ e.word

/-- The node of the encoder's tree that a code leads to from node `k` (43_code_assigner R201). -/
def followTree (nodes : List EncNode) : Nat → Code → Option Nat
  | k, [] => some k
  | k, b :: rest =>
    match nodes[k]? with
    | some (.internal l r _) => followTree nodes (if b then r else l) rest
    | _ => none

/-- The node of the decode tree that a code leads to from node `k`. -/
def follow (nodes : List DecNode) : Nat → Code → Option Nat
  | k, [] => some k
  | k, b :: rest =>
    match childOf nodes k b with
    | some m => follow nodes m rest
    | none => none

/-- The decoder's table maps the symbol `y` to the code `c`: the path `c` from the root ends at the
leaf of an entry whose symbol is `y` (10_state R57, R59). -/
def Decoder.holdsEntry (d : Decoder) (c : Code) (y : Symbol) : Prop :=
  c ≠ [] ∧ ∃ k j, follow d.node 0 c = some k ∧ leafOf d.node k = some j ∧ d.sym[j]? = some y

/-- The decoder holds the artifacts of the encoder: its table has every entry of the code table,
the padding count and the bytes are the encoder's, and nothing is pending (45_encoder_readout
R251). -/
def ArtifactsLoaded (e : Encoder) (d : Decoder) : Prop :=
  d.state = .load ∧ d.treeOk ∧ d.psym = [] ∧ d.pcode = [] ∧ d.padValid = true ∧ d.pad = e.pad ∧
    d.bytes = e.bytes ∧ ∀ i < e.sym.length, d.holdsEntry (e.code.getD i []) (e.sym.getD i [])

end Sys2Proof.Machine
end

