-- ==== Sys2Proof/Certificates/Slice0/Obligations.lean ====
section
/-! DEFINITION. The statements about the model, from the numbered rules of spec/. OBLIGATIONS.json
lists them. -/

namespace Sys2Proof.Claims

open Sys2Proof Sys2Proof.Machine

/-! ### Words the statements share -/

/-- An encoder command: opcode 0x10 to 0x2F (30_encoding R104). -/
def isEncoderCommand (i : Instr) : Prop := 0x10 ≤ (encode i).toNat ∧ (encode i).toNat ≤ 0x2F

/-- A decoder command: opcode 0x30 to 0x4F (30_encoding R104). -/
def isDecoderCommand (i : Instr) : Prop := 0x30 ≤ (encode i).toNat ∧ (encode i).toNat ≤ 0x4F

/-- The stage column of 30_encoding R103. -/
def stageOf : Instr → Stage
  | .nop | .sreset => .control
  | .encStart | .encPush | .encEnd => .analysis
  | .encBuild => .treeBuild
  | .encAssign => .codeAssign
  | .encPack => .packing
  | .encRdNsym | .encRdSymlen | .encRdSymcp | .encRdFreq | .encRdCodelen | .encRdCodebit
  | .encRdNstream | .encRdNbytes | .encRdByte | .encRdPad => .readout
  | .decStart | .decAddCp | .decAddBit | .decCommit | .decSetPad | .decPushByte => .artifactLoad
  | .decRun => .decode
  | .decRdNsym | .decRdOutlen | .decRdOutcp | .decRdNent => .readout

/-- The states column of 30_encoding R103 for the encoder commands that have a gate. -/
def encoderStates : Instr → Option (List EncState)
  | .encPush | .encEnd => some [.loading]
  | .encBuild => some [.analyzed]
  | .encAssign => some [.built]
  | .encPack => some [.assigned]
  | .encRdNsym | .encRdSymlen | .encRdSymcp | .encRdFreq | .encRdNstream =>
    some [.analyzed, .built, .assigned, .packed]
  | .encRdCodelen | .encRdCodebit => some [.assigned, .packed]
  | .encRdNbytes | .encRdByte | .encRdPad => some [.packed]
  | _ => none

/-- The states column of 30_encoding R103 for the decoder commands that have a gate. -/
def decoderStates : Instr → Option (List DecState)
  | .decAddCp | .decAddBit | .decCommit | .decSetPad | .decPushByte | .decRun => some [.load]
  | .decRdNsym | .decRdOutlen | .decRdOutcp => some [.done]
  | .decRdNent => some [.load, .done]
  | _ => none

/-- The next column of 30_encoding R103 for the encoder commands. -/
def encoderNext (i : Instr) (now : EncState) : EncState :=
  match i with
  | .encStart => .loading
  | .encEnd => .analyzed
  | .encBuild => .built
  | .encAssign => .assigned
  | .encPack => .packed
  | _ => now

/-- The next column of 30_encoding R103 for the decoder commands. -/
def decoderNext (i : Instr) (now : DecState) : DecState :=
  match i with
  | .decStart => .load
  | .decRun => .done
  | _ => now

/-- The opcodes 30_encoding R105 lists as illegal. -/
def unlistedOpcode (n : Nat) : Prop :=
  (0x02 ≤ n ∧ n ≤ 0x0F) ∨ (0x16 ≤ n ∧ n ≤ 0x1F) ∨ (0x2A ≤ n ∧ n ≤ 0x2F) ∨
    (0x37 ≤ n ∧ n ≤ 0x3F) ∨ (0x44 ≤ n ∧ n ≤ 0xFF)

/-- `zext_32(st * 256 + E_X)` (40_control R132), by the numbers of 60_exceptions R360, R361. -/
def errValue (st : Stage) (rc : ResultCode) : Word :=
  BitVec.ofNat 32 (st.code.toNat * 256 + rc.code.toNat)

/-- Everything outside the two units, the report and the ERR registers is unchanged. -/
def hostSideKept (s t : State) : Prop :=
  t.cfg = s.cfg ∧ t.arg0 = s.arg0 ∧ t.arg1 = s.arg1 ∧ t.pending = s.pending ∧ t.moves = s.moves ∧
    t.obs = s.obs

/-- RESULT, LAST_RC and LAST_STAGE of `t`. -/
def reports (t : State) (v : Word) (rc : ResultCode) (st : Stage) : Prop :=
  t.result = v ∧ t.lastRc = rc ∧ t.lastStage = st

/-- `o` is the answer of an encoder command that raised `rc` from `st` in state `s` (40_control
R132). It says nothing of the encoder's other fields, which are undefined in ERROR. -/
def failsEnc (s : State) (o : Host.Outcome State Fault Refusal) (rc : ResultCode) (st : Stage) :
    Prop :=
  ∃ t, o = .next t ∧ reports t 0 rc st ∧ t.enc.state = .error ∧
    t.encErr = (if s.enc.state = .error then s.encErr else errValue st rc) ∧
    t.dec = s.dec ∧ t.decErr = s.decErr ∧ hostSideKept s t

/-- `o` is the answer of a decoder command that raised `rc` from `st` in state `s`. -/
def failsDec (s : State) (o : Host.Outcome State Fault Refusal) (rc : ResultCode) (st : Stage) :
    Prop :=
  ∃ t, o = .next t ∧ reports t 0 rc st ∧ t.dec.state = .error ∧
    t.decErr = (if s.dec.state = .error then s.decErr else errValue st rc) ∧
    t.enc = s.enc ∧ t.encErr = s.encErr ∧ hostSideKept s t

/-- A host read at offset `off` answers `v` and changes nothing of the block. -/
def readGives (s : State) (rest : List Move) (off : Nat) (v : Word) : Prop :=
  step (s.setMoves (.host (.read (s.cfg.hufBase + off) 4) :: rest)) =
    .next ((s.setMoves rest).setObs (s.obs ++ [v]))

/-- A host write of `v` at offset `off` leaves the block as `t`. -/
def writeGives (s : State) (rest : List Move) (off : Nat) (v : Word) (t : State) : Prop :=
  step (s.setMoves (.host (.write (s.cfg.hufBase + off) 4 v) :: rest)) = .next (t.setMoves rest)

/-- The symbols of the stream, in text order (10_state R44). -/
def streamSymbols (e : Encoder) : List Symbol := e.stream.map fun i => e.sym.getD i []

/-- The symbols one code point emits (41_frequency_analyzer R153). -/
def emittedBy (k : AlphaClass) (e : Encoder) (c : CP) : List Symbol :=
  match e.mode with
  | .char => [[c]]
  | .word => if isAlpha k c then [] else if e.word = [] then [[c]] else [e.word, [c]]

/-- The pending run after one code point (41_frequency_analyzer R153). -/
def wordAfter (k : AlphaClass) (e : Encoder) (c : CP) : List CP :=
  match e.mode with
  | .char => e.word
  | .word => if isAlpha k c then e.word ++ [c] else []

/-- The symbol table once the symbols `ys` have been emitted: first occurrences, in order
(41_frequency_analyzer R151). -/
def symbolsAfter (e : Encoder) (ys : List Symbol) : List Symbol := (e.sym ++ ys).eraseDups

/-- The symbols `ys` fit the stream and the symbol table (41_frequency_analyzer R151). -/
def symbolsFit (c : Config) (e : Encoder) (ys : List Symbol) : Prop :=
  e.stream.length + ys.length ≤ c.streamCap ∧ (symbolsAfter e ys).length ≤ c.nSym

/-- One more code point fits the stream, the table and the pending run. -/
def pushFits (c : Config) (e : Encoder) (cp : CP) : Prop :=
  symbolsFit c e (emittedBy c.alpha e cp) ∧ (wordAfter c.alpha e cp).length ≤ c.wMax

/-- The state an outcome answers, or `d` where it stops. -/
def after (o : Host.Outcome State Fault Refusal) (d : State) : State :=
  match o with
  | .next t => t
  | _ => d

/-- The numeric value of a mode in ARG0 (10_state R42). -/
def modeWord : Mode → Word
  | .char => 0
  | .word => 1

/-- ENC_START with mode `m`, ENC_PUSH of every code point of `text`, ENC_END
(41_frequency_analyzer R156). -/
def analyse (s : State) (m : Mode) (text : List CP) : State :=
  let begun := after (exec .encStart (s.setArg0 (modeWord m))) s
  let pushed := text.foldl (fun u c => after (exec .encPush (u.setArg0 c)) u) begun
  after (exec .encEnd pushed) pushed

/-- DEC_ADD_CP of every code point of `y`, DEC_ADD_BIT of every bit of `c`, DEC_COMMIT
(46_table_loader R271 to R273). -/
def loadEntry (u : State) (c : Code) (y : Symbol) : State :=
  let named := y.foldl (fun v p => after (exec .decAddCp (v.setArg0 p)) v) u
  let coded := c.foldl (fun v b => after (exec .decAddBit (v.setArg0 (bitWord b))) v) named
  after (exec .decCommit coded) coded

/-- DEC_START, every entry of the encoder's code table in the order `order`, the padding count and
the bytes (45_encoder_readout R251). -/
def loadArtifacts (e : Encoder) (order : List Nat) (u : State) : State :=
  let begun := after (exec .decStart u) u
  let table := order.foldl (fun v i => loadEntry v (e.code.getD i []) (e.sym.getD i [])) begun
  let padded := after (exec .decSetPad (table.setArg0 (BitVec.ofNat 32 e.pad.val))) table
  e.bytes.foldl (fun v b => after (exec .decPushByte (v.setArg0 (byteWord b))) v) padded

/-- `analyse`, then ENC_BUILD, ENC_ASSIGN and ENC_PACK. -/
def encodeText (s : State) (m : Mode) (text : List CP) : State :=
  let a := analyse s m text
  let b := after (exec .encBuild a) a
  let c := after (exec .encAssign b) b
  after (exec .encPack c) c

/-- Bit `p` of a packed stream: bit `7 - (p mod 8)` of byte `p div 8` (20_memory R78). -/
def packedBit (bytes : List Byte) (p : Nat) : Bit := (bytes.getD (p / 8) 0).getLsbD (7 - p % 8)

/-- The valid bits of the loaded stream, `BIT(0)` to `BIT(N - 1)` (47_bitstream_walker R311). -/
def loadedBits (d : Decoder) : List Bit :=
  (List.range (8 * d.bytes.length - d.pad.val)).map (packedBit d.bytes)

/-- The codes of `parts`, one after another. -/
def codesOf (parts : List (Code × Symbol)) : List Bit := parts.flatMap Prod.fst

/-- The text of `parts`. -/
def textOf (parts : List (Code × Symbol)) : List CP := parts.flatMap Prod.snd

/-- Every pair of `parts` is an entry of the decoder's table. -/
def heldAll (d : Decoder) (parts : List (Code × Symbol)) : Prop :=
  ∀ p ∈ parts, d.holdsEntry p.1 p.2

/-- The loaded artifacts of DEC_RUN are complete (47_bitstream_walker R310). -/
def loadComplete (d : Decoder) : Prop :=
  d.state = .load ∧ d.psym = [] ∧ d.pcode = [] ∧ d.padValid = true

/-- How many nodes the pending code adds: one per non-empty prefix not yet in the tree
(46_table_loader R276). -/
def missingNodes (d : Decoder) : Nat :=
  ((List.range d.pcode.length).filter fun n =>
    (follow d.node 0 (d.pcode.take (n + 1))).isNone).length

/-- A committed code that equals the pending one, is a prefix of it or has it as a prefix
(46_table_loader R275). -/
def codeConflict (d : Decoder) : Prop :=
  ∃ c y, d.holdsEntry c y ∧ (c = d.pcode ∨ c <+: d.pcode ∨ d.pcode <+: c)

/-- A readout of one value of E (45_encoder_readout R240): RESULT on success, nothing else written;
E_STATE outside its states. -/
def encReads (i : Instr) (states : List EncState) (value : Encoder → Nat) : Prop :=
  ∀ s : State,
    (s.enc.state ∈ states →
      exec i s = .next (s.setReport (BitVec.ofNat 32 (value s.enc)) .ok .readout)) ∧
    (s.enc.state ∉ states → failsEnc s (exec i s) .eState .readout)

/-- A readout of one element of E, named by ARG0 and ARG1; out of range is E_INDEX. -/
def encReadsAt (i : Instr) (states : List EncState) (value : Encoder → Nat → Nat → Option Nat) :
    Prop :=
  ∀ s : State,
    (s.enc.state ∈ states → ∀ v, value s.enc s.arg0.toNat s.arg1.toNat = some v →
      exec i s = .next (s.setReport (BitVec.ofNat 32 v) .ok .readout)) ∧
    (s.enc.state ∈ states → value s.enc s.arg0.toNat s.arg1.toNat = none →
      failsEnc s (exec i s) .eIndex .readout) ∧
    (s.enc.state ∉ states → failsEnc s (exec i s) .eState .readout)

/-- A readout of one value of D (48_decoder_readout R344). -/
def decReads (i : Instr) (states : List DecState) (value : Decoder → Nat) : Prop :=
  ∀ s : State,
    (s.dec.state ∈ states →
      exec i s = .next (s.setReport (BitVec.ofNat 32 (value s.dec)) .ok .readout)) ∧
    (s.dec.state ∉ states → failsDec s (exec i s) .eState .readout)

/-- Node `a` comes before node `b` in POPMIN's order (42_tree_builder R182). -/
def notAfter (nodes : List EncNode) (a b : Nat) : Prop :=
  weightOf nodes a < weightOf nodes b ∨ (weightOf nodes a = weightOf nodes b ∧ a ≤ b)

end Sys2Proof.Claims

open Sys2Proof Sys2Proof.Machine Sys2Proof.Claims

/-! ### Reset, encoding, agents and the register window -/

/-- 10_state R64: the value of every piece of state after reset. The other fields of E and D are
unspecified there, so nothing is said of them; see UndefinedFieldsAreUnobservable. -/
def Obligations.ResetStateHoldsTheListedValues : Prop :=
  registerValue State.reset 0x00 = 0x48554631 ∧
  registerValue State.reset 0x20 = 4096 ∧ registerValue State.reset 0x24 = 64 ∧
  registerValue State.reset 0x28 = 1048576 ∧ registerValue State.reset 0x2C = 64 ∧
  registerValue State.reset 0x30 = 8388608 ∧ registerValue State.reset 0x34 = 8192 ∧
  registerValue State.reset 0x38 = 67108864 ∧ registerValue State.reset 0x3C = 0 ∧
  State.reset.arg0 = 0 ∧ State.reset.arg1 = 0 ∧ State.reset.result = 0 ∧
  State.reset.status = 0x00000000 ∧ State.reset.encErr = 0 ∧ State.reset.decErr = 0 ∧
  State.reset.pending = none ∧ State.reset.enc.state = .idle ∧ State.reset.dec.state = .idle

/-- 30_encoding R100, R103: words written out from the encoding decode to their commands, one per
family, and two illegal words of 40_control R134 decode to none. -/
def Obligations.WrittenWordsDecodeToTheirCommands : Prop :=
  decode 0b00000000000000000000000000000000#32 = .ok .nop ∧
  decode 0b00000000000000000000000000010001#32 = .ok .encPush ∧
  decode 0b00000000000000000000000000010011#32 = .ok .encBuild ∧
  decode 0b00000000000000000000000000010100#32 = .ok .encAssign ∧
  decode 0b00000000000000000000000000010101#32 = .ok .encPack ∧
  decode 0b00000000000000000000000000100101#32 = .ok .encRdCodebit ∧
  decode 0b00000000000000000000000000110011#32 = .ok .decCommit ∧
  decode 0b00000000000000000000000000110110#32 = .ok .decRun ∧
  decode 0b00000000000000000000000001000011#32 = .ok .decRdNent ∧
  decode 0x00000110 = .error .reservedBits ∧ decode 0x00000016 = .error .unlistedOpcode

/-- 30_encoding R103, R106: decoding and encoding are inverse, so every command has exactly one
word and every legal word is one command's. -/
def Obligations.DecodeIsTheExactInverseOfEncode : Prop :=
  ∀ (w : Word) (i : Instr), i.wf = true → (decode w = .ok i ↔ w = encode i)

/-- 30_encoding R105: which words are legal; an illegal one completes with E_ILLEGAL and stage
CONTROL and changes no unit state. -/
def Obligations.LegalWordsAreTheListedOpcodes : Prop :=
  ∀ w : Word,
    ((∃ i, decode w = .ok i) ↔
      w.extractLsb' 8 24 = 0 ∧ ¬ unlistedOpcode (w.extractLsb' 0 8).toNat) ∧
    ((¬ ∃ i, decode w = .ok i) →
      ∀ (s : State) (rest : List Move), s.pending = some w → s.moves = .engine :: rest →
      ∃ t, step s = .next t ∧ t.lastRc = .eIllegal ∧ t.lastStage = .control ∧
        t.enc = s.enc ∧ t.dec = s.dec)

/-- 30_encoding R115, 40_control R130: the engine's step carries out the decoded command, then
clears PENDING. The move list is the model's (log 4, 5). -/
def Obligations.EngineStepRunsTheDecodedCommand : Prop :=
  ∀ (s : State) (w : Word) (i : Instr), s.pending = some w → decode w = .ok i →
    (s.moves = [] → ∃ t, exec i s = .next t ∧ step s = .next (t.setPending none)) ∧
    (∀ rest, s.moves = .engine :: rest →
      ∃ t, exec i (s.setMoves rest) = .next t ∧ step s = .next (t.setPending none))

/-- 40_control R134: what the engine does with an illegal word, and the rule's example. -/
def Obligations.IllegalWordReportsAndTouchesNoUnit : Prop :=
  (∀ (s : State) (w : Word) (rest : List Move), s.pending = some w →
    (w.extractLsb' 8 24 ≠ 0 ∨ unlistedOpcode (w.extractLsb' 0 8).toNat) →
    s.moves = .engine :: rest →
      step s = .next (((s.setMoves rest).setReport 0 .eIllegal .control).setPending none)) ∧
  ResultCode.eIllegal.code = 0x01 ∧ Stage.control.code = 8 ∧
  ∃ t, step ((State.reset.setPending (some 0xFF)).setMoves [.engine]) = .next t ∧
    t.status = 0x00080100 ∧ t.result = 0

/-- 60_exceptions R374, 30_encoding R118: with nothing pending the block is idle and all state
holds; a run has ended exactly when no host operation is left and nothing is pending, and no step
after that, a reset included, is part of it. What a step is with no move left, and that an engine
move changes nothing then, is the model's reading (log 5, log 6). -/
def Obligations.IdleBlockHoldsAllState : Prop :=
  (∀ s : State, s.moves = [] → s.pending = none → step s = .next s) ∧
  (∀ s : State, s.ended = true ↔ s.pending = none ∧ ∀ op, Move.host op ∉ s.moves) ∧
  (∀ (s : State) (rest : List Move), s.ended = true → s.moves = .engine :: rest →
    step s = .next (s.setMoves rest)) ∧
  (∀ (s : State) (n : Nat), s.ended = true →
    runProgram n s = .next s ∧ s.observation = some (s.obs, s)) ∧
  (∀ s : State, s.ended = false → s.observation = none)

/-- 20_memory R71, R74: every host access with BUSY = 0. -/
def Obligations.IdleHostAccessesFollowTheRegisterMap : Prop :=
  ∀ (s : State) (rest : List Move), s.pending = none →
    readGives s rest 0x00 0x48554631 ∧ readGives s rest 0x04 0 ∧ readGives s rest 0x08 s.arg0 ∧
    readGives s rest 0x0C s.arg1 ∧ readGives s rest 0x10 s.result ∧
    readGives s rest 0x14 s.status ∧ readGives s rest 0x18 s.encErr ∧
    readGives s rest 0x1C s.decErr ∧
    readGives s rest 0x20 (BitVec.ofNat 32 s.cfg.nSym) ∧
    readGives s rest 0x24 (BitVec.ofNat 32 s.cfg.wMax) ∧
    readGives s rest 0x28 (BitVec.ofNat 32 s.cfg.streamCap) ∧
    readGives s rest 0x2C (BitVec.ofNat 32 s.cfg.maxCodeLen) ∧
    readGives s rest 0x30 (BitVec.ofNat 32 s.cfg.byteCap) ∧
    readGives s rest 0x34 (BitVec.ofNat 32 s.cfg.dnodeCap) ∧
    readGives s rest 0x38 (BitVec.ofNat 32 s.cfg.outCap) ∧
    readGives s rest 0x3C (alphaCode s.cfg.alpha) ∧
    (∀ off, 0x40 ≤ off → off ≤ 0xFC → off % 4 = 0 → readGives s rest off 0) ∧
    (∀ v, writeGives s rest 0x04 v (s.setPending (some v)) ∧ writeGives s rest 0x08 v (s.setArg0 v) ∧
      writeGives s rest 0x0C v (s.setArg1 v)) ∧
    (∀ off v, off ≤ 0xFC → off % 4 = 0 → off ≠ 0x04 → off ≠ 0x08 → off ≠ 0x0C →
      writeGives s rest off v s)

/-- 30_encoding R116: while BUSY = 1 the host may read STATUS, ID, CAP_* and CFG_ALPHA, with the
values of R71; the model refuses every other access. -/
def Obligations.BusyHostAccessesAreLimited : Prop :=
  ∀ (s : State) (rest : List Move) (w : Word), s.pending = some w →
    readGives s rest 0x14 s.status ∧ readGives s rest 0x00 0x48554631 ∧
    readGives s rest 0x20 (BitVec.ofNat 32 s.cfg.nSym) ∧
    readGives s rest 0x24 (BitVec.ofNat 32 s.cfg.wMax) ∧
    readGives s rest 0x28 (BitVec.ofNat 32 s.cfg.streamCap) ∧
    readGives s rest 0x2C (BitVec.ofNat 32 s.cfg.maxCodeLen) ∧
    readGives s rest 0x30 (BitVec.ofNat 32 s.cfg.byteCap) ∧
    readGives s rest 0x34 (BitVec.ofNat 32 s.cfg.dnodeCap) ∧
    readGives s rest 0x38 (BitVec.ofNat 32 s.cfg.outCap) ∧
    readGives s rest 0x3C (alphaCode s.cfg.alpha) ∧
    (∀ off, off ≤ 0xFC → off % 4 = 0 → off ≠ 0x00 → off ≠ 0x14 → ¬ (0x20 ≤ off ∧ off ≤ 0x3C) →
      step (s.setMoves (.host (.read (s.cfg.hufBase + off) 4) :: rest)) = .refused .busyViolation) ∧
    (∀ off v, off ≤ 0xFC → off % 4 = 0 →
      step (s.setMoves (.host (.write (s.cfg.hufBase + off) 4 v) :: rest)) =
        .refused .busyViolation)

/-- 20_memory R72, R73: an access of another width, and a misaligned one, are refused. -/
def Obligations.UndefinedAccessesAreRefused : Prop :=
  ∀ (s : State) (rest : List Move) (off : Nat) (v : Word), off < 256 →
    (∀ width, width ≠ 4 →
      step (s.setMoves (.host (.read (s.cfg.hufBase + off) width) :: rest)) =
        .refused .accessWidth ∧
      step (s.setMoves (.host (.write (s.cfg.hufBase + off) width v) :: rest)) =
        .refused .accessWidth) ∧
    (off % 4 ≠ 0 →
      step (s.setMoves (.host (.read (s.cfg.hufBase + off) 4) :: rest)) = .refused .misaligned ∧
      step (s.setMoves (.host (.write (s.cfg.hufBase + off) 4 v) :: rest)) = .refused .misaligned)

/-- 20_memory R70: no register has an address outside the 256-byte window. That such an access is a
fault is the model's choice (log 12). -/
def Obligations.AccessOutsideTheWindowFaults : Prop :=
  ∀ (s : State) (rest : List Move) (addr width : Nat) (v : Word),
    (addr < s.cfg.hufBase ∨ s.cfg.hufBase + 256 ≤ addr) →
      step (s.setMoves (.host (.read addr width) :: rest)) = .fault .outsideWindow ∧
      step (s.setMoves (.host (.write addr width v) :: rest)) = .fault .outsideWindow

/-- 70_reset_and_hazards R400: the reset step, from any state, BUSY included. -/
def Obligations.ResetStepClearsTheBlock : Prop :=
  ∀ (s : State) (rest : List Move), s.moves = .reset :: rest →
    ∃ t, step s = .next t ∧ t.pending = none ∧ t.arg0 = 0 ∧ t.arg1 = 0 ∧ t.result = 0 ∧
      t.status = 0x00000000 ∧ t.lastRc = .ok ∧ t.lastStage = .none ∧ t.encErr = 0 ∧ t.decErr = 0 ∧
      t.enc.state = .idle ∧ t.dec.state = .idle ∧ t.cfg = s.cfg ∧ t.moves = rest ∧ t.obs = s.obs

/-- 10_state R36: the fields of STATUS, and the numbers of the unit states (10_state R41, R56), the
result codes (60_exceptions R360) and the stage codes (R361) they show. -/
def Obligations.StatusFieldsStandWhereTheSpecPutsThem : Prop :=
  ∀ s : State,
    s.status.extractLsb' 0 4 = s.enc.state.code ∧ s.status.extractLsb' 4 4 = s.dec.state.code ∧
    s.status.extractLsb' 8 8 = s.lastRc.code ∧ s.status.extractLsb' 16 4 = s.lastStage.code ∧
    s.status.extractLsb' 20 11 = 0 ∧ s.status.getLsbD 31 = s.pending.isSome ∧
    (EncState.idle.code = 0 ∧ EncState.loading.code = 1 ∧ EncState.analyzed.code = 2 ∧
      EncState.built.code = 3 ∧ EncState.assigned.code = 4 ∧ EncState.packed.code = 5 ∧
      EncState.error.code = 15) ∧
    (DecState.idle.code = 0 ∧ DecState.load.code = 1 ∧ DecState.done.code = 2 ∧
      DecState.error.code = 15) ∧
    (ResultCode.ok.code = 0 ∧ ResultCode.eIllegal.code = 1 ∧ ResultCode.eState.code = 2 ∧
      ResultCode.eArg.code = 3 ∧ ResultCode.eIndex.code = 4 ∧ ResultCode.eCapacity.code = 5 ∧
      ResultCode.eTable.code = 6 ∧ ResultCode.eCorrupt.code = 7) ∧
    (Stage.none.code = 0 ∧ Stage.analysis.code = 1 ∧ Stage.treeBuild.code = 2 ∧
      Stage.codeAssign.code = 3 ∧ Stage.packing.code = 4 ∧ Stage.artifactLoad.code = 5 ∧
      Stage.decode.code = 6 ∧ Stage.readout.code = 7 ∧ Stage.control.code = 8)

/-! ### Rules about every command -/

/-- 40_control R137: no command writes ARG0 or ARG1; only host writes and reset change them. -/
def Obligations.OnlyHostWritesAndResetChangeOperands : Prop :=
  (∀ (i : Instr) (s t : State), exec i s = .next t → t.arg0 = s.arg0 ∧ t.arg1 = s.arg1) ∧
  (∀ s t : State, step s = .next t →
    (t.arg0 ≠ s.arg0 →
      (∃ v rest, s.moves = .host (.write (s.cfg.hufBase + 0x08) 4 v) :: rest) ∨
        ∃ rest, s.moves = .reset :: rest) ∧
    (t.arg1 ≠ s.arg1 →
      (∃ v rest, s.moves = .host (.write (s.cfg.hufBase + 0x0C) 4 v) :: rest) ∨
        ∃ rest, s.moves = .reset :: rest))

/-- 40_control R130 to R132: every command ends, in a next state, and outside the units it writes
no register but RESULT, STATUS, ENC_ERR and DEC_ERR. -/
def Obligations.EveryCommandCompletesWithinItsFrame : Prop :=
  ∀ (i : Instr) (s : State), ∃ t, exec i s = .next t ∧ hostSideKept s t ∧
    ∀ off, off ≠ 0x10 → off ≠ 0x14 → off ≠ 0x18 → off ≠ 0x1C →
      registerValue t off = registerValue s off

/-- 10_state R31, R38: the constant registers read the same before and after every step. -/
def Obligations.ConstantRegistersNeverChange : Prop :=
  ∀ s t : State, step s = .next t →
    t.cfg = s.cfg ∧
    ∀ off, off = 0x00 ∨ (0x20 ≤ off ∧ off ≤ 0x3C) → registerValue t off = registerValue s off

/-- 60_exceptions R363, R372: a command of one unit leaves the other unit and its ERR register as
they were. -/
def Obligations.CommandsLeaveTheOtherUnitAlone : Prop :=
  ∀ (i : Instr) (s t : State), exec i s = .next t →
    (isEncoderCommand i → t.dec = s.dec ∧ t.decErr = s.decErr) ∧
    (isDecoderCommand i → t.enc = s.enc ∧ t.encErr = s.encErr)

/-- 60_exceptions R372: neither unit sees the other. What a command does to its unit and reports
depends on that unit, its ERR register, the operands and the parameters alone. -/
def Obligations.CommandsDoNotSeeTheOtherUnit : Prop :=
  ∀ (i : Instr) (s s' t t' : State), s.cfg = s'.cfg → s.arg0 = s'.arg0 → s.arg1 = s'.arg1 →
    exec i s = .next t → exec i s' = .next t' →
    (isEncoderCommand i → s.enc = s'.enc → s.encErr = s'.encErr →
      t.enc = t'.enc ∧ t.encErr = t'.encErr ∧ reports t t'.result t'.lastRc t'.lastStage) ∧
    (isDecoderCommand i → s.dec = s'.dec → s.decErr = s'.decErr →
      t.dec = t'.dec ∧ t.decErr = t'.decErr ∧ reports t t'.result t'.lastRc t'.lastStage)

/-- 60_exceptions R363: what a failing unit command does, in the one engine step that carries it
out. -/
def Obligations.FailingCommandEntersErrorAndRecordsTheCause : Prop :=
  ∀ (s t : State) (i : Instr) (rest : List Move), s.pending = some (encode i) →
    s.moves = .engine :: rest → step s = .next t → t.lastRc ≠ .ok →
    t.result = 0 ∧ t.pending = none ∧ t.status.getLsbD 31 = false ∧
    t.arg0 = s.arg0 ∧ t.arg1 = s.arg1 ∧ t.cfg = s.cfg ∧ t.obs = s.obs ∧
    (isEncoderCommand i →
      t.enc.state = .error ∧ t.lastStage = stageOf i ∧
      t.encErr = (if s.enc.state = .error then s.encErr else errValue t.lastStage t.lastRc) ∧
      t.dec = s.dec ∧ t.decErr = s.decErr) ∧
    (isDecoderCommand i →
      t.dec.state = .error ∧
      (t.lastStage = stageOf i ∨ (i = .decRun ∧ t.lastStage = .artifactLoad ∧ t.lastRc = .eTable)) ∧
      t.decErr = (if s.dec.state = .error then s.decErr else errValue t.lastStage t.lastRc) ∧
      t.enc = s.enc ∧ t.encErr = s.encErr)

/-- 40_control R133, 30_encoding R103: a unit command outside its states fails with E_STATE, and a
unit already in ERROR keeps its first cause. -/
def Obligations.OutOfStateCommandsFailWithEState : Prop :=
  ∀ (i : Instr) (s : State),
    (∀ states, encoderStates i = some states → s.enc.state ∉ states →
      failsEnc s (exec i s) .eState (stageOf i)) ∧
    (∀ states, decoderStates i = some states → s.dec.state ∉ states →
      failsDec s (exec i s) .eState (stageOf i))

/-- 30_encoding R103, 70_reset_and_hazards R406: a unit command that succeeds was in its states,
moves its unit to the state of the next column, reports its stage, and leaves or clears its ERR
register. -/
def Obligations.SuccessfulCommandsMoveTheUnitByTheTable : Prop :=
  ∀ (i : Instr) (s t : State), exec i s = .next t → t.lastRc = .ok →
    t.lastStage = stageOf i ∧
    (isEncoderCommand i → t.enc.state = encoderNext i s.enc.state ∧
      t.encErr = (if i = .encStart then 0 else s.encErr) ∧
      ∀ states, encoderStates i = some states → s.enc.state ∈ states) ∧
    (isDecoderCommand i → t.dec.state = decoderNext i s.dec.state ∧
      t.decErr = (if i = .decStart then 0 else s.decErr) ∧
      ∀ states, decoderStates i = some states → s.dec.state ∈ states)

/-! ### Control commands -/

/-- 40_control R135. -/
def Obligations.NopOnlyCompletes : Prop :=
  ∀ s : State, exec .nop s = .next (s.setReport 0 .ok .control)

/-- 40_control R136. The units' other fields become undefined, so nothing is said of them. -/
def Obligations.SresetIdlesBothUnits : Prop :=
  ∀ s : State, ∃ t, exec .sreset s = .next t ∧ t.enc.state = .idle ∧ t.dec.state = .idle ∧
    t.encErr = 0 ∧ t.decErr = 0 ∧ reports t 0 .ok .control ∧ hostSideKept s t

/-! ### The encoder unit -/

/-- 41_frequency_analyzer R150. -/
def Obligations.EncStartBeginsARun : Prop :=
  ∀ s : State,
    (s.arg0 = 0 ∨ s.arg0 = 1 →
      exec .encStart s =
        .next (((s.setEnc
          { state := .loading, mode := if s.arg0 = 1 then .word else .char, sym := [], freq := [],
            stream := [], word := [], node := [], root := none, code := [], bytes := [],
            pad := 0 }).setEncErr 0).setReport 0 .ok .analysis)) ∧
    (1 < s.arg0.toNat → failsEnc s (exec .encStart s) .eArg .analysis)

/-- 41_frequency_analyzer R151: EMIT adds one occurrence of a symbol. -/
def Obligations.EmitAddsOneOccurrence : Prop :=
  ∀ (c : Config) (y : Symbol) (e : Encoder), e.freq.length = e.sym.length →
    (e.stream.length = c.streamCap → emit c y e = .error .eCapacity) ∧
    (e.stream.length ≠ c.streamCap → y ∉ e.sym → e.sym.length = c.nSym →
      emit c y e = .error .eCapacity) ∧
    (e.stream.length ≠ c.streamCap → y ∉ e.sym → e.sym.length ≠ c.nSym →
      emit c y e = .ok { e with sym := e.sym ++ [y], freq := e.freq ++ [1],
                                stream := e.stream ++ [e.sym.length] }) ∧
    (e.stream.length ≠ c.streamCap → y ∈ e.sym →
      ∃ i < e.sym.length, e.sym[i]? = some y ∧ (∀ j < i, e.sym[j]? ≠ some y) ∧
        emit c y e = .ok { e with freq := e.freq.set i (e.freq.getD i 0 + 1),
                                  stream := e.stream ++ [i] })

/-- 41_frequency_analyzer R153, R154: ENC_PUSH in each of its cases. On success the stream gains
exactly the symbols the code point emits, new symbols take the next indices, each count is the
number of occurrences (`analysisOk`), the held text gains the code point, and nothing else of E
changes. -/
def Obligations.EncPushTakesOneCodePoint : Prop :=
  ∀ s : State,
    (s.enc.state ≠ .loading → failsEnc s (exec .encPush s) .eState .analysis) ∧
    (s.enc.state = .loading → 0x10FFFF < s.arg0.toNat →
      failsEnc s (exec .encPush s) .eArg .analysis) ∧
    (s.enc.state = .loading → s.arg0.toNat ≤ 0x10FFFF → s.enc.analysisOk →
      s.enc.stream.length ≤ s.cfg.streamCap → s.enc.sym.length ≤ s.cfg.nSym →
      s.enc.word.length ≤ s.cfg.wMax →
      (¬ pushFits s.cfg s.enc s.arg0 → failsEnc s (exec .encPush s) .eCapacity .analysis) ∧
      (pushFits s.cfg s.enc s.arg0 →
        ∃ t, exec .encPush s = .next t ∧ reports t 0 .ok .analysis ∧ hostSideKept s t ∧
          t.dec = s.dec ∧ t.decErr = s.decErr ∧ t.encErr = s.encErr ∧
          streamSymbols t.enc = streamSymbols s.enc ++ emittedBy s.cfg.alpha s.enc s.arg0 ∧
          t.enc.word = wordAfter s.cfg.alpha s.enc s.arg0 ∧
          t.enc.heldText = s.enc.heldText ++ [s.arg0] ∧
          t.enc.sym = symbolsAfter s.enc (emittedBy s.cfg.alpha s.enc s.arg0) ∧
          t.enc.analysisOk ∧
          t.enc = { s.enc with sym := t.enc.sym, freq := t.enc.freq, stream := t.enc.stream,
                               word := t.enc.word }))

/-- 41_frequency_analyzer R155: ENC_END in each of its cases. -/
def Obligations.EncEndClosesTheText : Prop :=
  ∀ s : State,
    (s.enc.state ≠ .loading → failsEnc s (exec .encEnd s) .eState .analysis) ∧
    (s.enc.state = .loading → s.enc.analysisOk →
      s.enc.stream.length ≤ s.cfg.streamCap → s.enc.sym.length ≤ s.cfg.nSym →
      let last := if s.enc.word = [] then [] else [s.enc.word]
      (¬ symbolsFit s.cfg s.enc last → failsEnc s (exec .encEnd s) .eCapacity .analysis) ∧
      (symbolsFit s.cfg s.enc last →
        ∃ t, exec .encEnd s = .next t ∧
          reports t (BitVec.ofNat 32 t.enc.sym.length) .ok .analysis ∧ hostSideKept s t ∧
          t.dec = s.dec ∧ t.decErr = s.decErr ∧ t.encErr = s.encErr ∧
          streamSymbols t.enc = streamSymbols s.enc ++ last ∧
          t.enc.sym = symbolsAfter s.enc last ∧ t.enc.analysisOk ∧
          t.enc = { s.enc with state := .analyzed, sym := t.enc.sym, freq := t.enc.freq,
                               stream := t.enc.stream, word := [] }))

/-- 41_frequency_analyzer R156, R157: a successful analysis of any text gives the reference
tokenisation, whose concatenation is the text, and its frequency table. The alphabetic code points
of the tokenisation are, for the class ASCII_LETTERS, exactly those of 00_scope R10. -/
def Obligations.AnalysisIsTheReferenceTokenisation : Prop :=
  (∀ c : CP, isAlpha .asciiLetters c = true ↔
    (0x41 ≤ c.toNat ∧ c.toNat ≤ 0x5A) ∨ (0x61 ≤ c.toNat ∧ c.toNat ≤ 0x7A)) ∧
  ∀ (s : State) (m : Mode) (text : List CP),
    (analyse s m text).enc.state = .analyzed →
      streamSymbols (analyse s m text).enc = tokenize s.cfg.alpha m text ∧
      (streamSymbols (analyse s m text).enc).flatten = text ∧
      (analyse s m text).enc.sym = (tokenize s.cfg.alpha m text).eraseDups ∧
      (analyse s m text).enc.freq =
        (analyse s m text).enc.sym.map (fun y => (tokenize s.cfg.alpha m text).count y) ∧
      (∀ k ∈ (analyse s m text).enc.freq, 1 ≤ k) ∧
      (analyse s m text).enc.freq.sum = (analyse s m text).enc.stream.length ∧
      (analyse s m text).enc.stream.length = (tokenize s.cfg.alpha m text).length

/-- 42_tree_builder R182: one merge takes the two least nodes by weight and id, the first removed
to the right and the second to the left. -/
def Obligations.MergeTakesTheTwoLeastNodes : Prop :=
  ∀ (nodes : List EncNode) (q : List Nat), q.Nodup → 2 ≤ q.length →
    ∃ x y, x ∈ q ∧ y ∈ q ∧ x ≠ y ∧ (∀ k ∈ q, notAfter nodes x k) ∧
      (∀ k ∈ q, k ≠ x → notAfter nodes y k) ∧
      mergeStep nodes q =
        some (nodes ++ [.internal y x (weightOf nodes x + weightOf nodes y)],
          (q.erase x).erase y ++ [nodes.length])

/-- 42_tree_builder R183, R185: what ENC_BUILD completes with: the node count, the root, the leaves
first, and nothing else of E changed. -/
def Obligations.EncBuildCreatesTheTree : Prop :=
  ∀ s : State, s.enc.state = .analyzed →
    ∃ t, exec .encBuild s = .next t ∧
      reports t (BitVec.ofNat 32 t.enc.node.length) .ok .treeBuild ∧ hostSideKept s t ∧
      t.dec = s.dec ∧ t.decErr = s.decErr ∧ t.encErr = s.encErr ∧
      t.enc = { s.enc with state := .built, node := t.enc.node, root := t.enc.root } ∧
      t.enc.node.length = (if s.enc.sym.length = 0 then 0 else 2 * s.enc.sym.length - 1) ∧
      t.enc.root = (if s.enc.sym.length = 0 then none else some (t.enc.node.length - 1)) ∧
      (∀ i < s.enc.sym.length, t.enc.node[i]? = some (EncNode.leaf i (s.enc.freq.getD i 0))) ∧
      (∀ k, s.enc.sym.length ≤ k → k < t.enc.node.length →
        ∃ l r w, t.enc.node[k]? = some (EncNode.internal l r w))

/-- 42_tree_builder R186: the structure of the tree after ENC_BUILD. -/
def Obligations.EncBuildTreeIsFullAndAcyclic : Prop :=
  ∀ s t : State, s.enc.state = .analyzed → s.enc.sym ≠ [] → exec .encBuild s = .next t →
    ∃ root, t.enc.root = some root ∧
      (∀ k < t.enc.node.length, k ≠ root →
        ∃! p : Nat, ∃ l r w, t.enc.node[p]? = some (EncNode.internal l r w) ∧ (k = l ∨ k = r)) ∧
      (∀ (p l r w : Nat), t.enc.node[p]? = some (EncNode.internal l r w) → l < p ∧ r < p ∧ l ≠ r) ∧
      (∀ i < s.enc.sym.length, ∃ c, followTree t.enc.node root c = some i)

/-- 42_tree_builder R184: node weights after ENC_BUILD. -/
def Obligations.EncBuildWeightsAreSums : Prop :=
  ∀ s t : State, s.enc.state = .analyzed → s.enc.analysisOk → exec .encBuild s = .next t →
    (∀ (i w : Nat), t.enc.node[i]? = some (EncNode.leaf i w) → w = s.enc.stream.count i) ∧
    (∀ (p l r w : Nat), t.enc.node[p]? = some (EncNode.internal l r w) →
      w = weightOf t.enc.node l + weightOf t.enc.node r) ∧
    (∀ root, t.enc.root = some root → weightOf t.enc.node root = s.enc.stream.length)

/-- 42_tree_builder R187, first sentence: the weights of the merged nodes never decrease. -/
def Obligations.MergeWeightsNeverDecrease : Prop :=
  ∀ s t : State, s.enc.state = .analyzed → exec .encBuild s = .next t →
    ∀ p q, s.enc.sym.length ≤ p → p ≤ q → q < t.enc.node.length →
      weightOf t.enc.node p ≤ weightOf t.enc.node q

/-- 43_code_assigner R200, R202: ENC_ASSIGN gives each symbol the path of its leaf, the bit 0 to a
single symbol, and the longest length as RESULT, or fails with E_CAPACITY. -/
def Obligations.EncAssignGivesLeafPaths : Prop :=
  ∀ s : State,
    (s.enc.state ≠ .built → failsEnc s (exec .encAssign s) .eState .codeAssign) ∧
    (s.enc.state = .built → s.enc.treeOk →
      ∃ (code : List Code) (m : Nat), code.length = s.enc.sym.length ∧
        (s.enc.sym.length = 1 → code = [[false]]) ∧
        (2 ≤ s.enc.sym.length → ∀ i < s.enc.sym.length, ∃ root k w, s.enc.root = some root ∧
          followTree s.enc.node root (code.getD i []) = some k ∧
          s.enc.node[k]? = some (EncNode.leaf i w)) ∧
        (∀ c ∈ code, c.length ≤ m) ∧ (code = [] → m = 0) ∧
        (code ≠ [] → ∃ c ∈ code, c.length = m) ∧
        (m ≤ s.cfg.maxCodeLen →
          exec .encAssign s =
            .next ((s.setEnc { s.enc with code := code, state := .assigned }).setReport
              (BitVec.ofNat 32 m) .ok .codeAssign)) ∧
        (s.cfg.maxCodeLen < m → failsEnc s (exec .encAssign s) .eCapacity .codeAssign))

/-- 43_code_assigner R203: in every state ASSIGNED or PACKED the code table is prefix-free and no
code is empty. Stated as an invariant that every step keeps, with the tree invariant of
42_tree_builder R186 that it rests on. -/
def Obligations.EveryStepKeepsCodesPrefixFree : Prop :=
  ∀ s t : State, s.enc.treeOk → s.enc.codesOk → step s = .next t → t.enc.treeOk ∧ t.enc.codesOk

/-- 44_bit_packer R220, R222 and 20_memory R78: ENC_PACK in each of its cases. -/
def Obligations.EncPackPacksMostSignificantBitFirst : Prop :=
  ∀ s : State,
    let bits := s.enc.stream.flatMap fun i => s.enc.code.getD i []
    (s.enc.state ≠ .assigned → failsEnc s (exec .encPack s) .eState .packing) ∧
    (s.enc.state = .assigned → s.cfg.byteCap < (bits.length + 7) / 8 →
      failsEnc s (exec .encPack s) .eCapacity .packing) ∧
    (s.enc.state = .assigned → (bits.length + 7) / 8 ≤ s.cfg.byteCap →
      ∃ t, exec .encPack s = .next t ∧
        reports t (BitVec.ofNat 32 t.enc.bytes.length) .ok .packing ∧ hostSideKept s t ∧
        t.dec = s.dec ∧ t.decErr = s.decErr ∧ t.encErr = s.encErr ∧
        t.enc = { s.enc with state := .packed, bytes := t.enc.bytes, pad := t.enc.pad } ∧
        8 * t.enc.bytes.length = bits.length + t.enc.pad.val ∧
        (∀ p < bits.length, packedBit t.enc.bytes p = bits.getD p false) ∧
        (∀ p, bits.length ≤ p → p < 8 * t.enc.bytes.length → packedBit t.enc.bytes p = false))

/-- 45_encoder_readout R241, R247, R248, R250: the readouts without an index. -/
def Obligations.EncoderCountReadouts : Prop :=
  encReads .encRdNsym [.analyzed, .built, .assigned, .packed] (fun e => e.sym.length) ∧
  encReads .encRdNstream [.analyzed, .built, .assigned, .packed] (fun e => e.stream.length) ∧
  encReads .encRdNbytes [.packed] (fun e => e.bytes.length) ∧
  encReads .encRdPad [.packed] (fun e => e.pad.val)

/-- 45_encoder_readout R242, R243, R244, R245, R246, R249: the readouts with an index. -/
def Obligations.EncoderIndexedReadouts : Prop :=
  encReadsAt .encRdSymlen [.analyzed, .built, .assigned, .packed]
    (fun e i _ => e.sym[i]?.map List.length) ∧
  encReadsAt .encRdSymcp [.analyzed, .built, .assigned, .packed]
    (fun e i j => (e.sym[i]?.bind fun y => y[j]?).map BitVec.toNat) ∧
  encReadsAt .encRdFreq [.analyzed, .built, .assigned, .packed]
    (fun e i _ => if i < e.sym.length then some (e.freq.getD i 0) else none) ∧
  encReadsAt .encRdCodelen [.assigned, .packed]
    (fun e i _ => if i < e.sym.length then some (e.code.getD i []).length else none) ∧
  encReadsAt .encRdCodebit [.assigned, .packed]
    (fun e i j => if i < e.sym.length then (e.code.getD i [])[j]?.map Bool.toNat else none) ∧
  encReadsAt .encRdByte [.packed] (fun e k _ => e.bytes[k]?.map BitVec.toNat)

/-! ### The decoder unit -/

/-- 46_table_loader R270. -/
def Obligations.DecStartBeginsARun : Prop :=
  ∀ s : State,
    exec .decStart s =
      .next (((s.setDec
        { state := .load, sym := [], psym := [], pcode := [],
          node := [{ c0 := none, c1 := none, leaf := none }], pad := 0, padValid := false,
          bytes := [], out := [], nout := 0 }).setDecErr 0).setReport 0 .ok .artifactLoad)

/-- 46_table_loader R271: DEC_ADD_CP in each of its cases, in the order checked. -/
def Obligations.DecAddCpAppendsToThePendingSymbol : Prop :=
  ∀ s : State,
    (s.dec.state ≠ .load → failsDec s (exec .decAddCp s) .eState .artifactLoad) ∧
    (s.dec.state = .load → 0x10FFFF < s.arg0.toNat →
      failsDec s (exec .decAddCp s) .eArg .artifactLoad) ∧
    (s.dec.state = .load → s.arg0.toNat ≤ 0x10FFFF → s.dec.psym.length = s.cfg.wMax →
      failsDec s (exec .decAddCp s) .eCapacity .artifactLoad) ∧
    (s.dec.state = .load → s.arg0.toNat ≤ 0x10FFFF → s.dec.psym.length ≠ s.cfg.wMax →
      exec .decAddCp s =
        .next ((s.setDec { s.dec with psym := s.dec.psym ++ [s.arg0] }).setReport 0 .ok
          .artifactLoad))

/-- 46_table_loader R272: DEC_ADD_BIT in each of its cases, in the order checked. -/
def Obligations.DecAddBitAppendsToThePendingCode : Prop :=
  ∀ s : State,
    (s.dec.state ≠ .load → failsDec s (exec .decAddBit s) .eState .artifactLoad) ∧
    (s.dec.state = .load → 1 < s.arg0.toNat →
      failsDec s (exec .decAddBit s) .eTable .artifactLoad) ∧
    (s.dec.state = .load → s.arg0.toNat ≤ 1 → s.dec.pcode.length = s.cfg.maxCodeLen →
      failsDec s (exec .decAddBit s) .eCapacity .artifactLoad) ∧
    (s.dec.state = .load → s.arg0.toNat ≤ 1 → s.dec.pcode.length ≠ s.cfg.maxCodeLen →
      exec .decAddBit s =
        .next ((s.setDec { s.dec with pcode := s.dec.pcode ++ [decide (s.arg0 = 1)] }).setReport 0
          .ok .artifactLoad))

/-- 46_table_loader R277: DEC_SET_PAD in each of its cases. -/
def Obligations.DecSetPadLoadsThePaddingCount : Prop :=
  ∀ s : State,
    (s.dec.state ≠ .load → failsDec s (exec .decSetPad s) .eState .artifactLoad) ∧
    (s.dec.state = .load → 7 < s.arg0.toNat →
      failsDec s (exec .decSetPad s) .eTable .artifactLoad) ∧
    (∀ p : Fin 8, s.dec.state = .load → s.arg0.toNat = p.val →
      exec .decSetPad s =
        .next ((s.setDec { s.dec with pad := p, padValid := true }).setReport 0 .ok .artifactLoad))

/-- 46_table_loader R278: DEC_PUSH_BYTE in each of its cases, in the order checked. -/
def Obligations.DecPushByteAppendsToTheStream : Prop :=
  ∀ s : State,
    (s.dec.state ≠ .load → failsDec s (exec .decPushByte s) .eState .artifactLoad) ∧
    (s.dec.state = .load → 0xFF < s.arg0.toNat →
      failsDec s (exec .decPushByte s) .eArg .artifactLoad) ∧
    (s.dec.state = .load → s.arg0.toNat ≤ 0xFF → s.dec.bytes.length = s.cfg.byteCap →
      failsDec s (exec .decPushByte s) .eCapacity .artifactLoad) ∧
    (s.dec.state = .load → s.arg0.toNat ≤ 0xFF → s.dec.bytes.length ≠ s.cfg.byteCap →
      exec .decPushByte s =
        .next ((s.setDec { s.dec with bytes := s.dec.bytes ++ [BitVec.ofNat 8 s.arg0.toNat] }).setReport
          0 .ok .artifactLoad))

/-- 46_table_loader R273, R276: a commit that no check stops adds exactly the pending entry to the
table and exactly the missing nodes to the tree, and the capacity checks come after the table's. -/
def Obligations.DecCommitAddsExactlyThePendingEntry : Prop :=
  ∀ s : State, s.dec.state = .load → s.dec.treeOk → s.dec.psym ≠ [] → s.dec.pcode ≠ [] →
    s.dec.psym ∉ s.dec.sym → ¬ codeConflict s.dec →
    (s.dec.sym.length = s.cfg.nSym → failsDec s (exec .decCommit s) .eCapacity .artifactLoad) ∧
    (s.dec.sym.length ≠ s.cfg.nSym → s.cfg.dnodeCap < s.dec.node.length + missingNodes s.dec →
      failsDec s (exec .decCommit s) .eCapacity .artifactLoad) ∧
    (s.dec.sym.length ≠ s.cfg.nSym → s.dec.node.length + missingNodes s.dec ≤ s.cfg.dnodeCap →
      ∃ t, exec .decCommit s = .next t ∧
        reports t (BitVec.ofNat 32 s.dec.sym.length) .ok .artifactLoad ∧ hostSideKept s t ∧
        t.enc = s.enc ∧ t.encErr = s.encErr ∧ t.decErr = s.decErr ∧
        t.dec = { s.dec with node := t.dec.node, sym := s.dec.sym ++ [s.dec.psym], psym := [],
                             pcode := [] } ∧
        t.dec.node.length = s.dec.node.length + missingNodes s.dec ∧
        ∀ c y, t.dec.holdsEntry c y ↔
          s.dec.holdsEntry c y ∨ (c = s.dec.pcode ∧ y = s.dec.psym))

/-- 46_table_loader R273 (checks 2 to 5), R275: DEC_COMMIT refuses an entry with E_TABLE exactly
when its symbol or code is empty, its symbol is committed, or its code conflicts with one. -/
def Obligations.DecCommitRefusesExactlyTheMalformedEntries : Prop :=
  ∀ s : State, s.dec.state = .load → s.dec.treeOk →
    ((s.dec.psym = [] ∨ s.dec.pcode = [] ∨ s.dec.psym ∈ s.dec.sym ∨ codeConflict s.dec) →
      failsDec s (exec .decCommit s) .eTable .artifactLoad) ∧
    (∀ t, exec .decCommit s = .next t → t.lastRc = .eTable →
      s.dec.psym = [] ∨ s.dec.pcode = [] ∨ s.dec.psym ∈ s.dec.sym ∨ codeConflict s.dec)

/-- 47_bitstream_walker R310: the checks DEC_RUN makes before it walks, with the stage each
reports. -/
def Obligations.DecRunChecksTheArtifactsFirst : Prop :=
  ∀ s : State,
    (s.dec.state ≠ .load → failsDec s (exec .decRun s) .eState .decode) ∧
    (s.dec.state = .load → s.dec.psym ≠ [] ∨ s.dec.pcode ≠ [] ∨ s.dec.padValid = false →
      failsDec s (exec .decRun s) .eTable .artifactLoad) ∧
    (loadComplete s.dec → 8 * s.dec.bytes.length < s.dec.pad.val →
      failsDec s (exec .decRun s) .eCorrupt .decode)

/-- 47_bitstream_walker R310, R311: DEC_RUN on valid bits that are a sequence of codes of the table
completes with their symbols, in order. -/
def Obligations.DecRunDecodesASequenceOfCodes : Prop :=
  ∀ (s : State) (parts : List (Code × Symbol)), loadComplete s.dec → s.dec.treeOk →
    s.dec.pad.val ≤ 8 * s.dec.bytes.length → heldAll s.dec parts →
    loadedBits s.dec = codesOf parts → (textOf parts).length ≤ s.cfg.outCap →
      exec .decRun s =
        .next ((s.setDec { s.dec with out := textOf parts, nout := parts.length,
                                      state := .done }).setReport
          (BitVec.ofNat 32 parts.length) .ok .decode)

/-- 47_bitstream_walker R310 (checks 5 to 7), R312, R316: DEC_RUN succeeds only on a sequence of
codes of the table; where the output keeps within its capacity it fails with E_CORRUPT on any other
bits; and it fails with E_CAPACITY once the codes walked give more text than OUT_CAP, whatever bits
follow. -/
def Obligations.DecRunRejectsEverythingElse : Prop :=
  ∀ s : State, loadComplete s.dec → s.dec.treeOk → s.dec.pad.val ≤ 8 * s.dec.bytes.length →
    (∀ t, exec .decRun s = .next t → t.lastRc = .ok →
      ∃ parts, heldAll s.dec parts ∧ loadedBits s.dec = codesOf parts ∧
        t.dec.out = textOf parts ∧ t.dec.nout = parts.length) ∧
    ((∀ parts, heldAll s.dec parts → codesOf parts <+: loadedBits s.dec →
        (textOf parts).length ≤ s.cfg.outCap) →
      (¬ ∃ parts, heldAll s.dec parts ∧ loadedBits s.dec = codesOf parts) →
        failsDec s (exec .decRun s) .eCorrupt .decode) ∧
    (∀ parts, heldAll s.dec parts → codesOf parts <+: loadedBits s.dec →
      s.cfg.outCap < (textOf parts).length → failsDec s (exec .decRun s) .eCapacity .decode)

/-- 47_bitstream_walker R314: the padding bits are not checked. Bytes that agree on the valid bits
decode alike: the two outcomes agree on every defined value, apart from the bytes. -/
def Obligations.PaddingBitsAreNotChecked : Prop :=
  ∀ (s : State) (bytes : List Byte), bytes.length = s.dec.bytes.length →
    (∀ p < 8 * bytes.length - s.dec.pad.val, packedBit bytes p = packedBit s.dec.bytes p) →
    ∀ t t', exec .decRun s = .next t →
      exec .decRun (s.setDec { s.dec with bytes := bytes }) = .next t' →
        t'.defined = (t.setDec { t.dec with bytes := bytes }).defined

/-- 47_bitstream_walker R313: after a failed DEC_RUN the text and the count are not readable. -/
def Obligations.FailedRunLeavesNoReadableText : Prop :=
  ∀ s t : State, exec .decRun s = .next t → t.lastRc ≠ .ok → ∀ a : Word,
    let u := t.setArg0 a
    failsDec u (exec .decRdNsym u) .eState .readout ∧
    failsDec u (exec .decRdOutlen u) .eState .readout ∧
    failsDec u (exec .decRdOutcp u) .eState .readout

/-- 48_decoder_readout R340 to R343. -/
def Obligations.DecoderReadouts : Prop :=
  decReads .decRdNsym [.done] (fun d => d.nout) ∧
  decReads .decRdOutlen [.done] (fun d => d.out.length) ∧
  decReads .decRdNent [.load, .done] (fun d => d.sym.length) ∧
  ∀ s : State,
    (s.dec.state = .done → ∀ v, s.dec.out[s.arg0.toNat]? = some v →
      exec .decRdOutcp s = .next (s.setReport v .ok .readout)) ∧
    (s.dec.state = .done → s.dec.out.length ≤ s.arg0.toNat →
      failsDec s (exec .decRdOutcp s) .eIndex .readout) ∧
    (s.dec.state ≠ .done → failsDec s (exec .decRdOutcp s) .eState .readout)

/-- 47_bitstream_walker R315: in a balanced configuration, for any mode and text whose encoder run
ends in PACKED, loading the run's artifacts by the commands, the entries in any order, and DEC_RUN
give the text back, with one count per symbol of the run. -/
def Obligations.RoundTripThroughTheCommands : Prop :=
  ∀ (s : State) (m : Mode) (text : List CP), s.cfg.wf = true → s.cfg.balanced = true →
    (encodeText s m text).enc.state = .packed →
    ∀ (u : State) (order : List Nat), u.cfg = s.cfg →
      order.Perm (List.range (encodeText s m text).enc.sym.length) →
      ∃ t, exec .decRun (loadArtifacts (encodeText s m text).enc order u) = .next t ∧
        t.dec.state = .done ∧ t.dec.out = text ∧
        t.dec.nout = (encodeText s m text).enc.stream.length ∧
        reports t (BitVec.ofNat 32 t.dec.nout) .ok .decode

/-- 46_table_loader R279: DEC_RUN depends on the set of entries, not on the node ids and indices
the load order gave them. -/
def Obligations.DecRunDependsOnTheEntriesAlone : Prop :=
  ∀ s u : State, s.cfg = u.cfg → loadComplete s.dec → loadComplete u.dec → s.dec.treeOk →
    u.dec.treeOk → s.dec.pad = u.dec.pad → s.dec.bytes = u.dec.bytes →
    (∀ c y, s.dec.holdsEntry c y ↔ u.dec.holdsEntry c y) →
    ∀ t v, exec .decRun s = .next t → exec .decRun u = .next v →
      reports t v.result v.lastRc v.lastStage ∧ t.dec.state = v.dec.state ∧
      (t.dec.state = .done → t.dec.out = v.dec.out ∧ t.dec.nout = v.dec.nout)

/-- 47_bitstream_walker R315, with the decoder's contents in place of the load: a decoder that
holds the run's artifacts decodes to the text, with one count per symbol of the run. -/
def Obligations.DecodingAnEncodedTextGivesTheText : Prop :=
  ∀ (s : State) (m : Mode) (text : List CP),
    (encodeText s m text).enc.state = .packed → text.length ≤ s.cfg.outCap →
    ∀ u : State, u.cfg = s.cfg → ArtifactsLoaded (encodeText s m text).enc u.dec →
      ∃ t, exec .decRun u = .next t ∧ t.lastRc = .ok ∧ t.dec.out = text ∧
        t.dec.nout = (encodeText s m text).enc.stream.length ∧
        t.result = BitVec.ofNat 32 t.dec.nout

/-! ### Invariants of every step -/

/-- 10_state R37, R40, R43 to R45, R47, R55, R57, R59: the invariants below hold at reset. -/
def Obligations.InvariantsHoldAtReset : Prop :=
  State.reset.cfg.wf = true ∧ State.reset.cfg.balanced = true ∧ State.reset.memoryWf = true ∧
  State.reset.errOk ∧ State.reset.enc.analysisOk ∧ State.reset.enc.treeOk ∧
  State.reset.enc.codesOk ∧ State.reset.dec.treeOk

/-- 10_state R40, R55, 20_memory R79: no step takes an internal memory beyond its capacity. -/
def Obligations.EveryStepKeepsMemoriesWithinCapacity : Prop :=
  ∀ s t : State, s.cfg.wf = true → s.memoryWf = true → s.enc.analysisOk → step s = .next t →
    t.memoryWf = true

/-- 10_state R37: a unit's ERR register is 0 while the unit is not in ERROR and a recorded cause,
with its reserved bits 0, while it is. -/
def Obligations.EveryStepKeepsErrRegistersHonest : Prop :=
  ∀ s t : State, s.errOk → step s = .next t → t.errOk

/-- 10_state R43, R44, R45: every step keeps the frequency table and the symbol stream in
agreement. -/
def Obligations.EveryStepKeepsTheAnalysisConsistent : Prop :=
  ∀ s t : State, s.enc.analysisOk → step s = .next t → t.enc.analysisOk

/-- 10_state R57, R59, 46_table_loader R276: every step keeps the decode tree a tree. -/
def Obligations.EveryStepKeepsTheDecodeTree : Prop :=
  ∀ s t : State, s.dec.treeOk → step s = .next t → t.dec.treeOk

/-- 10_state R49, R63, R64: the fields the spec leaves undefined are unobservable. Two states that
agree on everything defined step alike, so no claim about defined values rests on the values the
model keeps there (log 8, 9, 10). -/
def Obligations.UndefinedFieldsAreUnobservable : Prop :=
  ∀ s t : State, s.defined = t.defined → sameDefined (step s) (step t)
end

