-- ==== Sys2Proof/Laws/State.lean ====
section
/-! SUPPORT. One lemma per field per update of the state, so that no proof unfolds a record update. -/

namespace Sys2Proof.Machine

@[simp] theorem State.setArg0_cfg (s : State) (v : Word) : (s.setArg0 v).cfg = s.cfg := rfl
@[simp] theorem State.setArg0_arg0 (s : State) (v : Word) : (s.setArg0 v).arg0 = v := rfl
@[simp] theorem State.setArg0_arg1 (s : State) (v : Word) : (s.setArg0 v).arg1 = s.arg1 := rfl
@[simp] theorem State.setArg0_result (s : State) (v : Word) : (s.setArg0 v).result = s.result := rfl
@[simp] theorem State.setArg0_lastRc (s : State) (v : Word) : (s.setArg0 v).lastRc = s.lastRc := rfl
@[simp] theorem State.setArg0_lastStage (s : State) (v : Word) : (s.setArg0 v).lastStage = s.lastStage := rfl
@[simp] theorem State.setArg0_encErr (s : State) (v : Word) : (s.setArg0 v).encErr = s.encErr := rfl
@[simp] theorem State.setArg0_decErr (s : State) (v : Word) : (s.setArg0 v).decErr = s.decErr := rfl
@[simp] theorem State.setArg0_pending (s : State) (v : Word) : (s.setArg0 v).pending = s.pending := rfl
@[simp] theorem State.setArg0_enc (s : State) (v : Word) : (s.setArg0 v).enc = s.enc := rfl
@[simp] theorem State.setArg0_dec (s : State) (v : Word) : (s.setArg0 v).dec = s.dec := rfl
@[simp] theorem State.setArg0_moves (s : State) (v : Word) : (s.setArg0 v).moves = s.moves := rfl
@[simp] theorem State.setArg0_obs (s : State) (v : Word) : (s.setArg0 v).obs = s.obs := rfl

@[simp] theorem State.setArg1_cfg (s : State) (v : Word) : (s.setArg1 v).cfg = s.cfg := rfl
@[simp] theorem State.setArg1_arg0 (s : State) (v : Word) : (s.setArg1 v).arg0 = s.arg0 := rfl
@[simp] theorem State.setArg1_arg1 (s : State) (v : Word) : (s.setArg1 v).arg1 = v := rfl
@[simp] theorem State.setArg1_result (s : State) (v : Word) : (s.setArg1 v).result = s.result := rfl
@[simp] theorem State.setArg1_lastRc (s : State) (v : Word) : (s.setArg1 v).lastRc = s.lastRc := rfl
@[simp] theorem State.setArg1_lastStage (s : State) (v : Word) : (s.setArg1 v).lastStage = s.lastStage := rfl
@[simp] theorem State.setArg1_encErr (s : State) (v : Word) : (s.setArg1 v).encErr = s.encErr := rfl
@[simp] theorem State.setArg1_decErr (s : State) (v : Word) : (s.setArg1 v).decErr = s.decErr := rfl
@[simp] theorem State.setArg1_pending (s : State) (v : Word) : (s.setArg1 v).pending = s.pending := rfl
@[simp] theorem State.setArg1_enc (s : State) (v : Word) : (s.setArg1 v).enc = s.enc := rfl
@[simp] theorem State.setArg1_dec (s : State) (v : Word) : (s.setArg1 v).dec = s.dec := rfl
@[simp] theorem State.setArg1_moves (s : State) (v : Word) : (s.setArg1 v).moves = s.moves := rfl
@[simp] theorem State.setArg1_obs (s : State) (v : Word) : (s.setArg1 v).obs = s.obs := rfl

@[simp] theorem State.setEncErr_cfg (s : State) (v : Word) : (s.setEncErr v).cfg = s.cfg := rfl
@[simp] theorem State.setEncErr_arg0 (s : State) (v : Word) : (s.setEncErr v).arg0 = s.arg0 := rfl
@[simp] theorem State.setEncErr_arg1 (s : State) (v : Word) : (s.setEncErr v).arg1 = s.arg1 := rfl
@[simp] theorem State.setEncErr_result (s : State) (v : Word) : (s.setEncErr v).result = s.result := rfl
@[simp] theorem State.setEncErr_lastRc (s : State) (v : Word) : (s.setEncErr v).lastRc = s.lastRc := rfl
@[simp] theorem State.setEncErr_lastStage (s : State) (v : Word) : (s.setEncErr v).lastStage = s.lastStage := rfl
@[simp] theorem State.setEncErr_encErr (s : State) (v : Word) : (s.setEncErr v).encErr = v := rfl
@[simp] theorem State.setEncErr_decErr (s : State) (v : Word) : (s.setEncErr v).decErr = s.decErr := rfl
@[simp] theorem State.setEncErr_pending (s : State) (v : Word) : (s.setEncErr v).pending = s.pending := rfl
@[simp] theorem State.setEncErr_enc (s : State) (v : Word) : (s.setEncErr v).enc = s.enc := rfl
@[simp] theorem State.setEncErr_dec (s : State) (v : Word) : (s.setEncErr v).dec = s.dec := rfl
@[simp] theorem State.setEncErr_moves (s : State) (v : Word) : (s.setEncErr v).moves = s.moves := rfl
@[simp] theorem State.setEncErr_obs (s : State) (v : Word) : (s.setEncErr v).obs = s.obs := rfl

@[simp] theorem State.setDecErr_cfg (s : State) (v : Word) : (s.setDecErr v).cfg = s.cfg := rfl
@[simp] theorem State.setDecErr_arg0 (s : State) (v : Word) : (s.setDecErr v).arg0 = s.arg0 := rfl
@[simp] theorem State.setDecErr_arg1 (s : State) (v : Word) : (s.setDecErr v).arg1 = s.arg1 := rfl
@[simp] theorem State.setDecErr_result (s : State) (v : Word) : (s.setDecErr v).result = s.result := rfl
@[simp] theorem State.setDecErr_lastRc (s : State) (v : Word) : (s.setDecErr v).lastRc = s.lastRc := rfl
@[simp] theorem State.setDecErr_lastStage (s : State) (v : Word) : (s.setDecErr v).lastStage = s.lastStage := rfl
@[simp] theorem State.setDecErr_encErr (s : State) (v : Word) : (s.setDecErr v).encErr = s.encErr := rfl
@[simp] theorem State.setDecErr_decErr (s : State) (v : Word) : (s.setDecErr v).decErr = v := rfl
@[simp] theorem State.setDecErr_pending (s : State) (v : Word) : (s.setDecErr v).pending = s.pending := rfl
@[simp] theorem State.setDecErr_enc (s : State) (v : Word) : (s.setDecErr v).enc = s.enc := rfl
@[simp] theorem State.setDecErr_dec (s : State) (v : Word) : (s.setDecErr v).dec = s.dec := rfl
@[simp] theorem State.setDecErr_moves (s : State) (v : Word) : (s.setDecErr v).moves = s.moves := rfl
@[simp] theorem State.setDecErr_obs (s : State) (v : Word) : (s.setDecErr v).obs = s.obs := rfl

@[simp] theorem State.setPending_cfg (s : State) (p : Option Word) : (s.setPending p).cfg = s.cfg := rfl
@[simp] theorem State.setPending_arg0 (s : State) (p : Option Word) : (s.setPending p).arg0 = s.arg0 := rfl
@[simp] theorem State.setPending_arg1 (s : State) (p : Option Word) : (s.setPending p).arg1 = s.arg1 := rfl
@[simp] theorem State.setPending_result (s : State) (p : Option Word) : (s.setPending p).result = s.result := rfl
@[simp] theorem State.setPending_lastRc (s : State) (p : Option Word) : (s.setPending p).lastRc = s.lastRc := rfl
@[simp] theorem State.setPending_lastStage (s : State) (p : Option Word) : (s.setPending p).lastStage = s.lastStage := rfl
@[simp] theorem State.setPending_encErr (s : State) (p : Option Word) : (s.setPending p).encErr = s.encErr := rfl
@[simp] theorem State.setPending_decErr (s : State) (p : Option Word) : (s.setPending p).decErr = s.decErr := rfl
@[simp] theorem State.setPending_pending (s : State) (p : Option Word) : (s.setPending p).pending = p := rfl
@[simp] theorem State.setPending_enc (s : State) (p : Option Word) : (s.setPending p).enc = s.enc := rfl
@[simp] theorem State.setPending_dec (s : State) (p : Option Word) : (s.setPending p).dec = s.dec := rfl
@[simp] theorem State.setPending_moves (s : State) (p : Option Word) : (s.setPending p).moves = s.moves := rfl
@[simp] theorem State.setPending_obs (s : State) (p : Option Word) : (s.setPending p).obs = s.obs := rfl

@[simp] theorem State.setEnc_cfg (s : State) (e : Encoder) : (s.setEnc e).cfg = s.cfg := rfl
@[simp] theorem State.setEnc_arg0 (s : State) (e : Encoder) : (s.setEnc e).arg0 = s.arg0 := rfl
@[simp] theorem State.setEnc_arg1 (s : State) (e : Encoder) : (s.setEnc e).arg1 = s.arg1 := rfl
@[simp] theorem State.setEnc_result (s : State) (e : Encoder) : (s.setEnc e).result = s.result := rfl
@[simp] theorem State.setEnc_lastRc (s : State) (e : Encoder) : (s.setEnc e).lastRc = s.lastRc := rfl
@[simp] theorem State.setEnc_lastStage (s : State) (e : Encoder) : (s.setEnc e).lastStage = s.lastStage := rfl
@[simp] theorem State.setEnc_encErr (s : State) (e : Encoder) : (s.setEnc e).encErr = s.encErr := rfl
@[simp] theorem State.setEnc_decErr (s : State) (e : Encoder) : (s.setEnc e).decErr = s.decErr := rfl
@[simp] theorem State.setEnc_pending (s : State) (e : Encoder) : (s.setEnc e).pending = s.pending := rfl
@[simp] theorem State.setEnc_enc (s : State) (e : Encoder) : (s.setEnc e).enc = e := rfl
@[simp] theorem State.setEnc_dec (s : State) (e : Encoder) : (s.setEnc e).dec = s.dec := rfl
@[simp] theorem State.setEnc_moves (s : State) (e : Encoder) : (s.setEnc e).moves = s.moves := rfl
@[simp] theorem State.setEnc_obs (s : State) (e : Encoder) : (s.setEnc e).obs = s.obs := rfl

@[simp] theorem State.setDec_cfg (s : State) (d : Decoder) : (s.setDec d).cfg = s.cfg := rfl
@[simp] theorem State.setDec_arg0 (s : State) (d : Decoder) : (s.setDec d).arg0 = s.arg0 := rfl
@[simp] theorem State.setDec_arg1 (s : State) (d : Decoder) : (s.setDec d).arg1 = s.arg1 := rfl
@[simp] theorem State.setDec_result (s : State) (d : Decoder) : (s.setDec d).result = s.result := rfl
@[simp] theorem State.setDec_lastRc (s : State) (d : Decoder) : (s.setDec d).lastRc = s.lastRc := rfl
@[simp] theorem State.setDec_lastStage (s : State) (d : Decoder) : (s.setDec d).lastStage = s.lastStage := rfl
@[simp] theorem State.setDec_encErr (s : State) (d : Decoder) : (s.setDec d).encErr = s.encErr := rfl
@[simp] theorem State.setDec_decErr (s : State) (d : Decoder) : (s.setDec d).decErr = s.decErr := rfl
@[simp] theorem State.setDec_pending (s : State) (d : Decoder) : (s.setDec d).pending = s.pending := rfl
@[simp] theorem State.setDec_enc (s : State) (d : Decoder) : (s.setDec d).enc = s.enc := rfl
@[simp] theorem State.setDec_dec (s : State) (d : Decoder) : (s.setDec d).dec = d := rfl
@[simp] theorem State.setDec_moves (s : State) (d : Decoder) : (s.setDec d).moves = s.moves := rfl
@[simp] theorem State.setDec_obs (s : State) (d : Decoder) : (s.setDec d).obs = s.obs := rfl

@[simp] theorem State.setMoves_cfg (s : State) (m : List Move) : (s.setMoves m).cfg = s.cfg := rfl
@[simp] theorem State.setMoves_arg0 (s : State) (m : List Move) : (s.setMoves m).arg0 = s.arg0 := rfl
@[simp] theorem State.setMoves_arg1 (s : State) (m : List Move) : (s.setMoves m).arg1 = s.arg1 := rfl
@[simp] theorem State.setMoves_result (s : State) (m : List Move) : (s.setMoves m).result = s.result := rfl
@[simp] theorem State.setMoves_lastRc (s : State) (m : List Move) : (s.setMoves m).lastRc = s.lastRc := rfl
@[simp] theorem State.setMoves_lastStage (s : State) (m : List Move) : (s.setMoves m).lastStage = s.lastStage := rfl
@[simp] theorem State.setMoves_encErr (s : State) (m : List Move) : (s.setMoves m).encErr = s.encErr := rfl
@[simp] theorem State.setMoves_decErr (s : State) (m : List Move) : (s.setMoves m).decErr = s.decErr := rfl
@[simp] theorem State.setMoves_pending (s : State) (m : List Move) : (s.setMoves m).pending = s.pending := rfl
@[simp] theorem State.setMoves_enc (s : State) (m : List Move) : (s.setMoves m).enc = s.enc := rfl
@[simp] theorem State.setMoves_dec (s : State) (m : List Move) : (s.setMoves m).dec = s.dec := rfl
@[simp] theorem State.setMoves_moves (s : State) (m : List Move) : (s.setMoves m).moves = m := rfl
@[simp] theorem State.setMoves_obs (s : State) (m : List Move) : (s.setMoves m).obs = s.obs := rfl

@[simp] theorem State.setObs_cfg (s : State) (o : List Word) : (s.setObs o).cfg = s.cfg := rfl
@[simp] theorem State.setObs_arg0 (s : State) (o : List Word) : (s.setObs o).arg0 = s.arg0 := rfl
@[simp] theorem State.setObs_arg1 (s : State) (o : List Word) : (s.setObs o).arg1 = s.arg1 := rfl
@[simp] theorem State.setObs_result (s : State) (o : List Word) : (s.setObs o).result = s.result := rfl
@[simp] theorem State.setObs_lastRc (s : State) (o : List Word) : (s.setObs o).lastRc = s.lastRc := rfl
@[simp] theorem State.setObs_lastStage (s : State) (o : List Word) : (s.setObs o).lastStage = s.lastStage := rfl
@[simp] theorem State.setObs_encErr (s : State) (o : List Word) : (s.setObs o).encErr = s.encErr := rfl
@[simp] theorem State.setObs_decErr (s : State) (o : List Word) : (s.setObs o).decErr = s.decErr := rfl
@[simp] theorem State.setObs_pending (s : State) (o : List Word) : (s.setObs o).pending = s.pending := rfl
@[simp] theorem State.setObs_enc (s : State) (o : List Word) : (s.setObs o).enc = s.enc := rfl
@[simp] theorem State.setObs_dec (s : State) (o : List Word) : (s.setObs o).dec = s.dec := rfl
@[simp] theorem State.setObs_moves (s : State) (o : List Word) : (s.setObs o).moves = s.moves := rfl
@[simp] theorem State.setObs_obs (s : State) (o : List Word) : (s.setObs o).obs = o := rfl

@[simp] theorem State.setReport_cfg (s : State) (v : Word) (rc : ResultCode) (st : Stage) :
    (s.setReport v rc st).cfg = s.cfg := rfl
@[simp] theorem State.setReport_arg0 (s : State) (v : Word) (rc : ResultCode) (st : Stage) :
    (s.setReport v rc st).arg0 = s.arg0 := rfl
@[simp] theorem State.setReport_arg1 (s : State) (v : Word) (rc : ResultCode) (st : Stage) :
    (s.setReport v rc st).arg1 = s.arg1 := rfl
@[simp] theorem State.setReport_result (s : State) (v : Word) (rc : ResultCode) (st : Stage) :
    (s.setReport v rc st).result = v := rfl
@[simp] theorem State.setReport_lastRc (s : State) (v : Word) (rc : ResultCode) (st : Stage) :
    (s.setReport v rc st).lastRc = rc := rfl
@[simp] theorem State.setReport_lastStage (s : State) (v : Word) (rc : ResultCode) (st : Stage) :
    (s.setReport v rc st).lastStage = st := rfl
@[simp] theorem State.setReport_encErr (s : State) (v : Word) (rc : ResultCode) (st : Stage) :
    (s.setReport v rc st).encErr = s.encErr := rfl
@[simp] theorem State.setReport_decErr (s : State) (v : Word) (rc : ResultCode) (st : Stage) :
    (s.setReport v rc st).decErr = s.decErr := rfl
@[simp] theorem State.setReport_pending (s : State) (v : Word) (rc : ResultCode) (st : Stage) :
    (s.setReport v rc st).pending = s.pending := rfl
@[simp] theorem State.setReport_enc (s : State) (v : Word) (rc : ResultCode) (st : Stage) :
    (s.setReport v rc st).enc = s.enc := rfl
@[simp] theorem State.setReport_dec (s : State) (v : Word) (rc : ResultCode) (st : Stage) :
    (s.setReport v rc st).dec = s.dec := rfl
@[simp] theorem State.setReport_moves (s : State) (v : Word) (rc : ResultCode) (st : Stage) :
    (s.setReport v rc st).moves = s.moves := rfl
@[simp] theorem State.setReport_obs (s : State) (v : Word) (rc : ResultCode) (st : Stage) :
    (s.setReport v rc st).obs = s.obs := rfl

/-- Writing back the field a state already has changes nothing. -/
@[simp] theorem State.setEnc_self (s : State) : s.setEnc s.enc = s := rfl
@[simp] theorem State.setDec_self (s : State) : s.setDec s.dec = s := rfl
@[simp] theorem State.setEnc_setEnc (s : State) (e f : Encoder) : (s.setEnc e).setEnc f = s.setEnc f := rfl
@[simp] theorem State.setDec_setDec (s : State) (d f : Decoder) : (s.setDec d).setDec f = s.setDec f := rfl
@[simp] theorem State.setMoves_setMoves (s : State) (m n : List Move) : (s.setMoves m).setMoves n = s.setMoves n := rfl
@[simp] theorem State.setPending_setPending (s : State) (p q : Option Word) :
    (s.setPending p).setPending q = s.setPending q := rfl

/-- STATUS and BUSY depend on the fields R36 names alone. -/
theorem State.status_eq (s : State) :
    s.status = BitVec.ofBool s.pending.isSome ++ (0 : BitVec 11) ++ s.lastStage.code ++ s.lastRc.code ++
      s.dec.state.code ++ s.enc.state.code := rfl
@[simp] theorem State.busy_of_pending (s : State) (p : Option Word) : (s.setPending p).busy = p.isSome := rfl

/-- The machine after reset has every internal memory within its capacity. -/
theorem State.reset_memoryWf : State.reset.memoryWf = true := by decide

end Sys2Proof.Machine
end

