-- ==== Sys2Proof/Laws/Ops.lean ====
section
/-! SUPPORT. What each shared operation can do, said once. -/

namespace Sys2Proof.Machine

/-! `complete` (40_control R131) -/

@[simp] theorem complete_cfg (st : Stage) (v : Word) (s : State) : (complete st v s).cfg = s.cfg := rfl
@[simp] theorem complete_arg0 (st : Stage) (v : Word) (s : State) : (complete st v s).arg0 = s.arg0 := rfl
@[simp] theorem complete_arg1 (st : Stage) (v : Word) (s : State) : (complete st v s).arg1 = s.arg1 := rfl
@[simp] theorem complete_result (st : Stage) (v : Word) (s : State) : (complete st v s).result = v := rfl
@[simp] theorem complete_lastRc (st : Stage) (v : Word) (s : State) : (complete st v s).lastRc = .ok := rfl
@[simp] theorem complete_lastStage (st : Stage) (v : Word) (s : State) :
    (complete st v s).lastStage = st := rfl
@[simp] theorem complete_encErr (st : Stage) (v : Word) (s : State) : (complete st v s).encErr = s.encErr := rfl
@[simp] theorem complete_decErr (st : Stage) (v : Word) (s : State) : (complete st v s).decErr = s.decErr := rfl
@[simp] theorem complete_pending (st : Stage) (v : Word) (s : State) :
    (complete st v s).pending = s.pending := rfl
@[simp] theorem complete_enc (st : Stage) (v : Word) (s : State) : (complete st v s).enc = s.enc := rfl
@[simp] theorem complete_dec (st : Stage) (v : Word) (s : State) : (complete st v s).dec = s.dec := rfl
@[simp] theorem complete_moves (st : Stage) (v : Word) (s : State) : (complete st v s).moves = s.moves := rfl
@[simp] theorem complete_obs (st : Stage) (v : Word) (s : State) : (complete st v s).obs = s.obs := rfl

/-! `raise` (40_control R132) -/

/-- What entering ERROR does to the encoder. -/
theorem enterError_encoder (rc : ResultCode) (st : Stage) (s : State) :
    enterError .encoder rc st s =
      if s.enc.state = .error then s
      else (s.setEnc { s.enc with state := .error }).setEncErr (errWord st rc) := rfl

/-- What entering ERROR does to the decoder. -/
theorem enterError_decoder (rc : ResultCode) (st : Stage) (s : State) :
    enterError .decoder rc st s =
      if s.dec.state = .error then s
      else (s.setDec { s.dec with state := .error }).setDecErr (errWord st rc) := rfl

@[simp] theorem raise_result (u : CmdUnit) (rc : ResultCode) (st : Stage) (s : State) :
    (raise u rc st s).result = 0 := rfl
@[simp] theorem raise_lastRc (u : CmdUnit) (rc : ResultCode) (st : Stage) (s : State) :
    (raise u rc st s).lastRc = rc := rfl
@[simp] theorem raise_lastStage (u : CmdUnit) (rc : ResultCode) (st : Stage) (s : State) :
    (raise u rc st s).lastStage = st := rfl

@[simp] theorem raise_cfg (u : CmdUnit) (rc : ResultCode) (st : Stage) (s : State) :
    (raise u rc st s).cfg = s.cfg := by
  cases u <;> simp only [raise, enterError, State.setReport_cfg] <;> split <;> rfl
@[simp] theorem raise_arg0 (u : CmdUnit) (rc : ResultCode) (st : Stage) (s : State) :
    (raise u rc st s).arg0 = s.arg0 := by
  cases u <;> simp only [raise, enterError, State.setReport_arg0] <;> split <;> rfl
@[simp] theorem raise_arg1 (u : CmdUnit) (rc : ResultCode) (st : Stage) (s : State) :
    (raise u rc st s).arg1 = s.arg1 := by
  cases u <;> simp only [raise, enterError, State.setReport_arg1] <;> split <;> rfl
@[simp] theorem raise_pending (u : CmdUnit) (rc : ResultCode) (st : Stage) (s : State) :
    (raise u rc st s).pending = s.pending := by
  cases u <;> simp only [raise, enterError, State.setReport_pending] <;> split <;> rfl
@[simp] theorem raise_moves (u : CmdUnit) (rc : ResultCode) (st : Stage) (s : State) :
    (raise u rc st s).moves = s.moves := by
  cases u <;> simp only [raise, enterError, State.setReport_moves] <;> split <;> rfl
@[simp] theorem raise_obs (u : CmdUnit) (rc : ResultCode) (st : Stage) (s : State) :
    (raise u rc st s).obs = s.obs := by
  cases u <;> simp only [raise, enterError, State.setReport_obs] <;> split <;> rfl

/-- The failing unit's state is ERROR, and its other fields are kept. -/
@[simp] theorem raise_encoder_enc (rc : ResultCode) (st : Stage) (s : State) :
    (raise .encoder rc st s).enc = { s.enc with state := .error } := by
  simp only [raise, enterError, State.setReport_enc]
  split
  · next h => rw [← h]
  · rfl
@[simp] theorem raise_decoder_dec (rc : ResultCode) (st : Stage) (s : State) :
    (raise .decoder rc st s).dec = { s.dec with state := .error } := by
  simp only [raise, enterError, State.setReport_dec]
  split
  · next h => rw [← h]
  · rfl

/-- The first cause is kept. -/
@[simp] theorem raise_encoder_encErr (rc : ResultCode) (st : Stage) (s : State) :
    (raise .encoder rc st s).encErr = if s.enc.state = .error then s.encErr else errWord st rc := by
  simp only [raise, enterError, State.setReport_encErr]
  split <;> rfl
@[simp] theorem raise_decoder_decErr (rc : ResultCode) (st : Stage) (s : State) :
    (raise .decoder rc st s).decErr = if s.dec.state = .error then s.decErr else errWord st rc := by
  simp only [raise, enterError, State.setReport_decErr]
  split <;> rfl

/-- The other unit is not touched. -/
@[simp] theorem raise_encoder_dec (rc : ResultCode) (st : Stage) (s : State) :
    (raise .encoder rc st s).dec = s.dec := by
  simp only [raise, enterError, State.setReport_dec]
  split <;> rfl
@[simp] theorem raise_encoder_decErr (rc : ResultCode) (st : Stage) (s : State) :
    (raise .encoder rc st s).decErr = s.decErr := by
  simp only [raise, enterError, State.setReport_decErr]
  split <;> rfl
@[simp] theorem raise_decoder_enc (rc : ResultCode) (st : Stage) (s : State) :
    (raise .decoder rc st s).enc = s.enc := by
  simp only [raise, enterError, State.setReport_enc]
  split <;> rfl
@[simp] theorem raise_decoder_encErr (rc : ResultCode) (st : Stage) (s : State) :
    (raise .decoder rc st s).encErr = s.encErr := by
  simp only [raise, enterError, State.setReport_encErr]
  split <;> rfl

/-! The command frames (40_control R133, 45_encoder_readout R240, 48_decoder_readout R344) -/

/-- Everything an encoder command can do: run its body and complete, or raise from its stage. -/
theorem encCommand_cases (st : Stage) (states : List EncState)
    (body : Encoder → Except ResultCode (Word × Encoder)) (s : State) :
    (s.enc.state ∈ states ∧ ∃ v e, body s.enc = .ok (v, e) ∧
      encCommand st states body s = complete st v (s.setEnc e)) ∨
    (s.enc.state ∈ states ∧ ∃ rc, body s.enc = .error rc ∧
      encCommand st states body s = raise .encoder rc st s) ∨
    (s.enc.state ∉ states ∧ encCommand st states body s = raise .encoder .eState st s) := by
  unfold encCommand
  by_cases h : s.enc.state ∈ states
  · cases hb : body s.enc with
    | ok r => exact .inl ⟨h, r.1, r.2, rfl, by simp only [h, if_true]⟩
    | error rc => exact .inr (.inl ⟨h, rc, rfl, by simp only [h, if_true]⟩)
  · exact .inr (.inr ⟨h, by simp only [h, if_false]⟩)

/-- Everything a decoder command can do. -/
theorem decCommand_cases (st : Stage) (states : List DecState)
    (body : Decoder → Except ResultCode (Word × Decoder)) (s : State) :
    (s.dec.state ∈ states ∧ ∃ v d, body s.dec = .ok (v, d) ∧
      decCommand st states body s = complete st v (s.setDec d)) ∨
    (s.dec.state ∈ states ∧ ∃ rc, body s.dec = .error rc ∧
      decCommand st states body s = raise .decoder rc st s) ∨
    (s.dec.state ∉ states ∧ decCommand st states body s = raise .decoder .eState st s) := by
  unfold decCommand
  by_cases h : s.dec.state ∈ states
  · cases hb : body s.dec with
    | ok r => exact .inl ⟨h, r.1, r.2, rfl, by simp only [h, if_true]⟩
    | error rc => exact .inr (.inl ⟨h, rc, rfl, by simp only [h, if_true]⟩)
  · exact .inr (.inr ⟨h, by simp only [h, if_false]⟩)

/-- A command whose gate is open and whose body succeeds. -/
theorem encCommand_ok {st : Stage} {states : List EncState}
    {body : Encoder → Except ResultCode (Word × Encoder)} {s : State} {v : Word} {e : Encoder}
    (h : s.enc.state ∈ states) (hb : body s.enc = .ok (v, e)) :
    encCommand st states body s = complete st v (s.setEnc e) := by
  simp only [encCommand, h, if_true, hb]
theorem encCommand_error {st : Stage} {states : List EncState}
    {body : Encoder → Except ResultCode (Word × Encoder)} {s : State} {rc : ResultCode}
    (h : s.enc.state ∈ states) (hb : body s.enc = .error rc) :
    encCommand st states body s = raise .encoder rc st s := by
  simp only [encCommand, h, if_true, hb]
theorem encCommand_gate {st : Stage} {states : List EncState}
    {body : Encoder → Except ResultCode (Word × Encoder)} {s : State}
    (h : s.enc.state ∉ states) : encCommand st states body s = raise .encoder .eState st s := by
  simp only [encCommand, h, if_false]
theorem decCommand_ok {st : Stage} {states : List DecState}
    {body : Decoder → Except ResultCode (Word × Decoder)} {s : State} {v : Word} {d : Decoder}
    (h : s.dec.state ∈ states) (hb : body s.dec = .ok (v, d)) :
    decCommand st states body s = complete st v (s.setDec d) := by
  simp only [decCommand, h, if_true, hb]
theorem decCommand_error {st : Stage} {states : List DecState}
    {body : Decoder → Except ResultCode (Word × Decoder)} {s : State} {rc : ResultCode}
    (h : s.dec.state ∈ states) (hb : body s.dec = .error rc) :
    decCommand st states body s = raise .decoder rc st s := by
  simp only [decCommand, h, if_true, hb]
theorem decCommand_gate {st : Stage} {states : List DecState}
    {body : Decoder → Except ResultCode (Word × Decoder)} {s : State}
    (h : s.dec.state ∉ states) : decCommand st states body s = raise .decoder .eState st s := by
  simp only [decCommand, h, if_false]

/-- A readout writes no field of E: it reports a value, or raises (45_encoder_readout R240). -/
theorem encReadout_cases (states : List EncState) (read : Encoder → Except ResultCode Word)
    (s : State) :
    (s.enc.state ∈ states ∧ ∃ v, read s.enc = .ok v ∧
      encReadout states read s = complete .readout v s) ∨
    (s.enc.state ∈ states ∧ ∃ rc, read s.enc = .error rc ∧
      encReadout states read s = raise .encoder rc .readout s) ∨
    (s.enc.state ∉ states ∧ encReadout states read s = raise .encoder .eState .readout s) := by
  by_cases h : s.enc.state ∈ states
  · cases hr : read s.enc with
    | ok v =>
      exact .inl ⟨h, v, rfl, by simp [encReadout, encCommand, h, hr, Except.map]⟩
    | error rc =>
      exact .inr (.inl ⟨h, rc, rfl, by simp [encReadout, encCommand, h, hr, Except.map]⟩)
  · exact .inr (.inr ⟨h, by simp [encReadout, encCommand, h]⟩)

/-- A readout writes no field of D (48_decoder_readout R344). -/
theorem decReadout_cases (states : List DecState) (read : Decoder → Except ResultCode Word)
    (s : State) :
    (s.dec.state ∈ states ∧ ∃ v, read s.dec = .ok v ∧
      decReadout states read s = complete .readout v s) ∨
    (s.dec.state ∈ states ∧ ∃ rc, read s.dec = .error rc ∧
      decReadout states read s = raise .decoder rc .readout s) ∨
    (s.dec.state ∉ states ∧ decReadout states read s = raise .decoder .eState .readout s) := by
  by_cases h : s.dec.state ∈ states
  · cases hr : read s.dec with
    | ok v =>
      exact .inl ⟨h, v, rfl, by simp [decReadout, decCommand, h, hr, Except.map]⟩
    | error rc =>
      exact .inr (.inl ⟨h, rc, rfl, by simp [decReadout, decCommand, h, hr, Except.map]⟩)
  · exact .inr (.inr ⟨h, by simp [decReadout, decCommand, h]⟩)

end Sys2Proof.Machine
end

