-- ==== Sys2Proof/Laws/Operands.lean ====
section
/-! SUPPORT. What each operand form answers (30_encoding R102). -/

namespace Sys2Proof.Machine

theorem modeOperand_ok {a : Word} {m : Mode} :
    modeOperand a = .ok m ↔ (a = 0 ∧ m = .char) ∨ (a = 1 ∧ m = .word) := by
  unfold modeOperand
  split
  · next h => subst h; constructor
              · intro h; exact .inl ⟨rfl, by injection h with h; exact h.symm⟩
              · rintro (⟨-, rfl⟩ | ⟨h, -⟩)
                · rfl
                · exact absurd h (by decide)
  · next h0 =>
    split
    · next h1 => subst h1; constructor
                 · intro h; exact .inr ⟨rfl, by injection h with h; exact h.symm⟩
                 · rintro (⟨h, -⟩ | ⟨-, rfl⟩)
                   · exact absurd h (by decide)
                   · rfl
    · next h1 => constructor
                 · intro h; exact absurd h (by simp)
                 · rintro (⟨h, -⟩ | ⟨h, -⟩)
                   · exact absurd h h0
                   · exact absurd h h1

theorem cpOperand_ok {a : Word} {c : CP} : cpOperand a = .ok c ↔ a ≤ 0x10FFFF ∧ c = a := by
  unfold cpOperand
  split
  · next h => exact ⟨fun e => ⟨h, by injection e with e; exact e.symm⟩, fun e => by rw [e.2]⟩
  · next h => exact ⟨fun e => (by cases e), fun e => absurd e.1 h⟩

theorem cpOperand_of_le {a : Word} (h : a ≤ 0x10FFFF) : cpOperand a = .ok a := by
  simp only [cpOperand, h, if_true]

theorem cpOperand_of_not_le {a : Word} (h : ¬ a ≤ 0x10FFFF) : cpOperand a = .error .eArg := by
  simp only [cpOperand, h, if_false]

theorem padOperand_ok {a : Word} {p : Fin 8} : padOperand a = .ok p ↔ a.toNat = p.val := by
  unfold padOperand
  split
  · next h => constructor
              · intro h; injection h with h; rw [← h]
              · intro e; exact congrArg Except.ok (Fin.ext e)
  · next h => constructor
              · intro h; exact absurd h (by simp)
              · intro h; have := p.isLt; omega

theorem byteOperand_of_le {a : Word} (h : a ≤ 0xFF) : byteOperand a = .ok (a.setWidth 8) := by
  simp only [byteOperand, h, if_true]

theorem byteOperand_of_not_le {a : Word} (h : ¬ a ≤ 0xFF) : byteOperand a = .error .eArg := by
  simp only [byteOperand, h, if_false]

theorem indexOperand_ok {α : Type} {l : List α} {a : Word} {v : α} :
    indexOperand l a = .ok v ↔ l[a.toNat]? = some v := by
  unfold indexOperand; split <;> simp_all

theorem indexOperand_error {α : Type} {l : List α} {a : Word} {rc : ResultCode} :
    indexOperand l a = .error rc ↔ l.length ≤ a.toNat ∧ rc = .eIndex := by
  unfold indexOperand
  split
  · next v h =>
    have := (List.getElem?_eq_some_iff.mp h).1
    simp; omega
  · next h => simp [List.getElem?_eq_none_iff.mp h, eq_comm]

end Sys2Proof.Machine
end

