-- ==== Sys2Proof/Laws/Memory.lean ====
section
/-! SUPPORT. The internal memories (20_memory R79): every operation that grows one keeps it within
its capacity. -/

namespace Sys2Proof.Machine

theorem appendCapped_ok {α : Type} {cap : Nat} {v : α} {l l' : List α}
    (h : appendCapped cap v l = .ok l') : l.length ≠ cap ∧ l' = l ++ [v] := by
  unfold appendCapped at h
  split at h
  · exact absurd h (by simp)
  · next hc => injection h with h; exact ⟨hc, h.symm⟩

theorem appendCapped_error {α : Type} {cap : Nat} {v : α} {l : List α} {rc : ResultCode}
    (h : appendCapped cap v l = .error rc) : l.length = cap ∧ rc = .eCapacity := by
  unfold appendCapped at h
  split at h
  · next hc => injection h with h; exact ⟨hc, h.symm⟩
  · exact absurd h (by simp)

/-- An append keeps a memory within its capacity. -/
theorem appendCapped_length_le {α : Type} {cap : Nat} {v : α} {l l' : List α}
    (hl : l.length ≤ cap) (h : appendCapped cap v l = .ok l') : l'.length ≤ cap := by
  obtain ⟨hc, rfl⟩ := appendCapped_ok h
  simp only [List.length_append, List.length_singleton]
  omega

/-- The memory part of the analyser's state: symbols, counts and stream within their capacities. -/
abbrev analyserWf (c : Config) (e : Encoder) : Prop :=
  e.sym.length ≤ c.nSym ∧ (∀ y ∈ e.sym, y.length ≤ c.wMax) ∧ e.freq.length ≤ c.nSym ∧
    e.freq.length = e.sym.length ∧ e.stream.length ≤ c.streamCap

/-- Everything EMIT can do (41_frequency_analyzer R151): count a symbol it knows, or one it adds. -/
theorem emit_ok {c : Config} {y : Symbol} {e e' : Encoder} (h : emit c y e = .ok e') :
    e.stream.length ≠ c.streamCap ∧
    ((∃ i, e.sym.idxOf? y = some i ∧ e' = countOccurrence i e) ∨
     (e.sym.idxOf? y = none ∧ e.sym.length ≠ c.nSym ∧
      e' = countOccurrence e.sym.length { e with sym := e.sym ++ [y], freq := e.freq ++ [0] })) := by
  unfold emit at h
  split at h
  · exact absurd h (by simp)
  · next hs =>
    refine ⟨hs, ?_⟩
    split at h
    · next i hi => injection h with h; exact .inl ⟨i, hi, h.symm⟩
    · next hi =>
      split at h
      · exact absurd h (by simp)
      · next hn => injection h with h; exact .inr ⟨hi, hn, h.symm⟩

/-- EMIT fails only for want of room. -/
theorem emit_error {c : Config} {y : Symbol} {e : Encoder} {rc : ResultCode}
    (h : emit c y e = .error rc) : rc = .eCapacity := by
  unfold emit at h
  split at h
  · injection h with h; exact h.symm
  · split at h
    · exact absurd h (by simp)
    · split at h
      · injection h with h; exact h.symm
      · exact absurd h (by simp)

/-- EMIT keeps the analyser's memories within their capacities. -/
theorem emit_analyserWf {c : Config} {y : Symbol} {e e' : Encoder} (hy : y.length ≤ c.wMax)
    (hw : analyserWf c e) (h : emit c y e = .ok e') : analyserWf c e' := by
  obtain ⟨hs, ⟨i, -, rfl⟩ | ⟨-, hn, rfl⟩⟩ := emit_ok h
  · obtain ⟨h1, h2, h3, h4, h5⟩ := hw
    refine ⟨h1, h2, ?_, ?_, ?_⟩ <;> simp only [countOccurrence, List.length_modify,
      List.length_append, List.length_singleton] <;> omega
  · obtain ⟨h1, h2, h3, h4, h5⟩ := hw
    refine ⟨?_, ?_, ?_, ?_, ?_⟩
    · simp only [countOccurrence, List.length_append, List.length_singleton]; omega
    · intro z hz
      simp only [countOccurrence, List.mem_append, List.mem_singleton] at hz
      rcases hz with hz | rfl
      · exact h2 z hz
      · exact hy
    all_goals
      simp only [countOccurrence, List.length_modify, List.length_append, List.length_singleton]
      omega

/-- The new nodes of DEC_COMMIT are one per remaining bit of the code (46_table_loader R273). -/
theorem insertPath_length (j : Nat) (nodes : List DecNode) (k : Nat) (c : Code) :
    (insertPath j nodes k c).length = nodes.length + c.length := by
  induction c generalizing nodes k with
  | nil => simp [insertPath]
  | cons b rest ih => simp [insertPath, ih]; omega

/-- The tree builder starts from one leaf per symbol (42_tree_builder R181). -/
@[simp] theorem leafNodes_length (n : Nat) (freq : List Nat) : (leafNodes n freq).length = n := by
  simp [leafNodes]

/-- The code table is aligned with the symbols (10_state R47). -/
@[simp] theorem codeTable_length (n : Nat) (nodes : List EncNode) (root : Option Nat) :
    (codeTable n nodes root).length = n := by
  unfold codeTable
  split
  · next h => simp [h]
  · simp

/-- Fewer than eight bits make no byte. -/
theorem packBits_short : (bits : List Bit) → bits.length < 8 → packBits bits = []
  | [], _ => rfl
  | [_], _ => rfl
  | [_, _], _ => rfl
  | [_, _, _], _ => rfl
  | [_, _, _, _], _ => rfl
  | [_, _, _, _, _], _ => rfl
  | [_, _, _, _, _, _], _ => rfl
  | [_, _, _, _, _, _, _], _ => rfl
  | _ :: _ :: _ :: _ :: _ :: _ :: _ :: _ :: rest, h => by simp only [List.length_cons] at h; omega

/-- Eight bits and the rest make one byte and the rest's bytes. -/
theorem packBits_cons (b7 b6 b5 b4 b3 b2 b1 b0 : Bit) (rest : List Bit) :
    packBits (b7 :: b6 :: b5 :: b4 :: b3 :: b2 :: b1 :: b0 :: rest) =
      byteOfBits b7 b6 b5 b4 b3 b2 b1 b0 :: packBits rest := rfl

/-- The packed stream has one byte per eight bits (44_bit_packer R220). -/
theorem packBits_length : (bits : List Bit) → (packBits bits).length = bits.length / 8
  | b7 :: b6 :: b5 :: b4 :: b3 :: b2 :: b1 :: b0 :: rest => by
    rw [packBits_cons, List.length_cons, packBits_length rest]
    simp only [List.length_cons]
    omega
  | [] => by rw [packBits_short _ (by simp)]; simp
  | [_] => by rw [packBits_short _ (by simp)]; simp
  | [_, _] => by rw [packBits_short _ (by simp)]; simp
  | [_, _, _] => by rw [packBits_short _ (by simp)]; simp
  | [_, _, _, _] => by rw [packBits_short _ (by simp)]; simp
  | [_, _, _, _, _] => by rw [packBits_short _ (by simp)]; simp
  | [_, _, _, _, _, _] => by rw [packBits_short _ (by simp)]; simp
  | [_, _, _, _, _, _, _] => by rw [packBits_short _ (by simp)]; simp

end Sys2Proof.Machine
end

