-- ==== Sys2Proof/Laws/Step.lean ====
section
/-! SUPPORT. What a step can do. -/

namespace Sys2Proof.Machine

/-- The forms a host access is checked for, in order (20_memory R70, R72, R73). -/
theorem hostAccess_cases (addr width : Nat) (s : State)
    (effect : Nat → Host.Outcome State Fault Refusal) :
    (windowOffset s.cfg addr = none ∧ hostAccess addr width s effect = .fault .outsideWindow) ∨
    ∃ off, windowOffset s.cfg addr = some off ∧
      ((width ≠ 4 ∧ hostAccess addr width s effect = .refused .accessWidth) ∨
       (width = 4 ∧ off % 4 ≠ 0 ∧ hostAccess addr width s effect = .refused .misaligned) ∨
       (width = 4 ∧ off % 4 = 0 ∧ hostAccess addr width s effect = effect off)) := by
  unfold hostAccess
  cases hw : windowOffset s.cfg addr with
  | none => exact .inl ⟨rfl, rfl⟩
  | some off =>
    refine .inr ⟨off, rfl, ?_⟩
    by_cases h4 : width = 4
    · by_cases ha : off % 4 = 0
      · exact .inr (.inr ⟨h4, ha, by simp [h4, ha]⟩)
      · exact .inr (.inl ⟨h4, ha, by simp [h4, ha]⟩)
    · exact .inl ⟨h4, by simp [h4]⟩

/-- An offset in the window is found at its address (20_memory R70). -/
theorem windowOffset_base (c : Config) {off : Nat} (h : off < 256) :
    windowOffset c (c.hufBase + off) = some off := by
  unfold windowOffset
  rw [if_pos (by omega)]
  congr 1; omega

/-- The engine's end of a command clears PENDING and changes nothing else. -/
@[simp] theorem finishCommand_next (s : State) : finishCommand (.next s) = .next (s.setPending none) := rfl

/-- The engine step on a legal word is the command's meaning, then PENDING cleared (40_control
R130). -/
theorem engineStep_of_decode {s : State} {w : Word} {i : Instr} (hp : s.pending = some w)
    (hd : decode w = .ok i) : engineStep s = finishCommand (exec i s) := by
  simp only [engineStep, hp, execute, hd]

/-- The engine step on an illegal word (40_control R134). -/
theorem engineStep_of_illegal {s : State} {w : Word} {r : DecodeError} (hp : s.pending = some w)
    (hd : decode w = .error r) : engineStep s = .next ((illegal s).setPending none) := by
  simp only [engineStep, hp, execute, hd, finishCommand_next]

/-- The engine step with nothing pending (60_exceptions R374). -/
theorem engineStep_of_idle {s : State} (hp : s.pending = none) : engineStep s = .next s := by
  simp only [engineStep, hp]

/-- Everything a step can be: the engine's with no move scheduled, or the first scheduled move. -/
theorem step_cases (s : State) :
    (s.moves = [] ∧ step s = engineStep s) ∨
    (∃ rest, s.moves = .engine :: rest ∧ step s = engineStep (s.setMoves rest)) ∨
    (∃ op rest, s.moves = .host op :: rest ∧ step s = hostStep op (s.setMoves rest)) ∨
    (∃ rest, s.moves = .reset :: rest ∧ step s = .next (hardReset (s.setMoves rest))) := by
  unfold step nextStep
  cases hm : s.moves with
  | nil => exact .inl ⟨rfl, rfl⟩
  | cons m rest =>
    cases m with
    | engine => exact .inr (.inl ⟨rest, rfl, rfl⟩)
    | host op => exact .inr (.inr (.inl ⟨op, rest, rfl, rfl⟩))
    | reset => exact .inr (.inr (.inr ⟨rest, rfl, rfl⟩))

/-- A word placed by `withFetchWord` is what the next step runs. -/
theorem step_withFetchWord (s : State) (nbits w : Nat) :
    step (s.withFetchWord nbits w) =
      execute (tableWord nbits w) (s.setPending (some (tableWord nbits w))) := rfl

/-! The run of a host program (30_encoding R118) -/

/-- A run takes no step from a state in which it has ended. -/
theorem runProgram_of_ended {s : State} (h : s.ended = true) : (n : Nat) → runProgram n s = .next s
  | 0 => rfl
  | n + 1 => by simp only [runProgram, h, if_true]

/-- A run that has not ended goes on after a step. -/
theorem runProgram_succ {s t : State} (n : Nat) (h : s.ended = false) (hs : step s = .next t) :
    runProgram (n + 1) s = runProgram n t := by simp [runProgram, h, hs]

/-- The observation is there exactly when the run has ended. -/
theorem observation_eq_some {s : State} {o : List Word × State} :
    s.observation = some o ↔ s.ended = true ∧ o = (s.obs, s) := by
  unfold State.observation
  split
  · next h => exact ⟨fun e => ⟨h, (Option.some.inj e).symm⟩, fun e => congrArg some e.2.symm⟩
  · next h => exact ⟨fun e => (nomatch e), fun e => absurd e.1 h⟩

end Sys2Proof.Machine
end

