-- ==== Sys2Proof/Laws/PerInstr.lean ====
section
/-! SUPPORT. The family UnitRange: the word of each command has its reserved bits clear, and its
opcode lies in the range of its unit (30_encoding R100, R104). -/

namespace Sys2Proof.Laws.UnitRange

open Sys2Proof Sys2Proof.Machine

/-- The unit of a row of 30_encoding R103; none for the control commands. -/
def unitOf : Instr → Option CmdUnit
  | .nop => none
  | .sreset => none
  | .encStart => some .encoder
  | .encPush => some .encoder
  | .encEnd => some .encoder
  | .encBuild => some .encoder
  | .encAssign => some .encoder
  | .encPack => some .encoder
  | .encRdNsym => some .encoder
  | .encRdSymlen => some .encoder
  | .encRdSymcp => some .encoder
  | .encRdFreq => some .encoder
  | .encRdCodelen => some .encoder
  | .encRdCodebit => some .encoder
  | .encRdNstream => some .encoder
  | .encRdNbytes => some .encoder
  | .encRdByte => some .encoder
  | .encRdPad => some .encoder
  | .decStart => some .decoder
  | .decAddCp => some .decoder
  | .decAddBit => some .decoder
  | .decCommit => some .decoder
  | .decSetPad => some .decoder
  | .decPushByte => some .decoder
  | .decRun => some .decoder
  | .decRdNsym => some .decoder
  | .decRdOutlen => some .decoder
  | .decRdOutcp => some .decoder
  | .decRdNent => some .decoder

/-- The opcode range of a unit (30_encoding R104). -/
def inRange (u : Option CmdUnit) (n : Nat) : Bool :=
  match u with
  | none => decide (n ≤ 0x0F)
  | some .encoder => decide (0x10 ≤ n ∧ n ≤ 0x2F)
  | some .decoder => decide (0x30 ≤ n ∧ n ≤ 0x4F)

/-- The word of `i` has the form of R100 and its opcode is in its unit's range (R104). -/
def Statement (i : Instr) : Prop :=
  CommandWord.wf (encode i) = true ∧ inRange (unitOf i) (encode i).toNat = true

theorem nop : Statement .nop := ⟨by decide, by decide⟩
theorem sreset : Statement .sreset := ⟨by decide, by decide⟩
theorem encStart : Statement .encStart := ⟨by decide, by decide⟩
theorem encPush : Statement .encPush := ⟨by decide, by decide⟩
theorem encEnd : Statement .encEnd := ⟨by decide, by decide⟩
theorem encBuild : Statement .encBuild := ⟨by decide, by decide⟩
theorem encAssign : Statement .encAssign := ⟨by decide, by decide⟩
theorem encPack : Statement .encPack := ⟨by decide, by decide⟩
theorem encRdNsym : Statement .encRdNsym := ⟨by decide, by decide⟩
theorem encRdSymlen : Statement .encRdSymlen := ⟨by decide, by decide⟩
theorem encRdSymcp : Statement .encRdSymcp := ⟨by decide, by decide⟩
theorem encRdFreq : Statement .encRdFreq := ⟨by decide, by decide⟩
theorem encRdCodelen : Statement .encRdCodelen := ⟨by decide, by decide⟩
theorem encRdCodebit : Statement .encRdCodebit := ⟨by decide, by decide⟩
theorem encRdNstream : Statement .encRdNstream := ⟨by decide, by decide⟩
theorem encRdNbytes : Statement .encRdNbytes := ⟨by decide, by decide⟩
theorem encRdByte : Statement .encRdByte := ⟨by decide, by decide⟩
theorem encRdPad : Statement .encRdPad := ⟨by decide, by decide⟩
theorem decStart : Statement .decStart := ⟨by decide, by decide⟩
theorem decAddCp : Statement .decAddCp := ⟨by decide, by decide⟩
theorem decAddBit : Statement .decAddBit := ⟨by decide, by decide⟩
theorem decCommit : Statement .decCommit := ⟨by decide, by decide⟩
theorem decSetPad : Statement .decSetPad := ⟨by decide, by decide⟩
theorem decPushByte : Statement .decPushByte := ⟨by decide, by decide⟩
theorem decRun : Statement .decRun := ⟨by decide, by decide⟩
theorem decRdNsym : Statement .decRdNsym := ⟨by decide, by decide⟩
theorem decRdOutlen : Statement .decRdOutlen := ⟨by decide, by decide⟩
theorem decRdOutcp : Statement .decRdOutcp := ⟨by decide, by decide⟩
theorem decRdNent : Statement .decRdNent := ⟨by decide, by decide⟩

end Sys2Proof.Laws.UnitRange
end

