-- ==== Sys2Proof/Tests/Slice0.lean ====
section
/-! SUPPORT. The model's own tests: words written out from the encoding tables, ill-formed terms,
one-step tests whose expected values are the spec's (95_test_vectors and the rules' examples), and
for every statement with hypotheses a witness that meets them. -/

set_option synthInstance.maxSize 1000

namespace Sys2Proof.Tests

open Sys2Proof Sys2Proof.Machine Sys2Proof.Claims

/-! ### Helpers -/

/-- The state after command `i`. -/
def did (i : Instr) (s : State) : State := after (exec i s) State.reset

def withEnc (e : Encoder) : State := State.reset.setEnc e
def withDec (d : Decoder) : State := State.reset.setDec d

/-- "aaab" in CHAR mode after ENC_END (95_test_vectors T1). -/
def aaab : Encoder :=
  { freshEncoder .char with
    state := .analyzed, sym := [[0x61], [0x62]], freq := [3, 1], stream := [0, 0, 0, 1] }

def aaabBuilt : Encoder :=
  { aaab with state := .built, node := [.leaf 0 3, .leaf 1 1, .internal 0 1 4], root := some 2 }

def aaabAssigned : Encoder := { aaabBuilt with state := .assigned, code := [[false], [true]] }

def aaabPacked : Encoder := { aaabAssigned with state := .packed, bytes := [0x10], pad := 4 }

/-- "abracadabra" after ENC_END (95_test_vectors FA4). -/
def abra : Encoder :=
  { freshEncoder .char with
    state := .analyzed, sym := [[0x61], [0x62], [0x72], [0x63], [0x64]], freq := [5, 2, 2, 1, 1],
    stream := [0, 1, 2, 0, 3, 0, 4, 0, 1, 2, 0] }

/-- "abracadabra" after ENC_BUILD (95_test_vectors TB3). -/
def abraBuilt : Encoder :=
  { abra with
    state := .built, root := some 8,
    node := [.leaf 0 5, .leaf 1 2, .leaf 2 2, .leaf 3 1, .leaf 4 1, .internal 4 3 2,
      .internal 2 1 4, .internal 6 5 6, .internal 7 0 11] }

/-- WORD mode after "Hi" (95_test_vectors FA11). -/
def hi : Encoder := { freshEncoder .word with word := [0x48, 0x69] }

/-- One symbol, "z", analysed (95_test_vectors T3). -/
def zzz : Encoder :=
  { freshEncoder .char with state := .analyzed, sym := [[0x7A]], freq := [3], stream := [0, 0, 0] }

def zzzBuilt : Encoder := { zzz with state := .built, node := [.leaf 0 3], root := some 0 }

/-- The empty text after ENC_BUILD (95_test_vectors T2). -/
def emptyBuilt : Encoder := { freshEncoder .char with state := .built }

def encFailed : Encoder := { freshEncoder .char with state := .error }

/-- a:"0" and b:"1" committed (46_table_loader R273). -/
def ab : Decoder :=
  { freshDecoder with
    sym := [[0x61], [0x62]],
    node := [⟨some 1, some 2, none⟩, ⟨none, none, some 0⟩, ⟨none, none, some 1⟩] }

/-- The artifacts of "aaab" loaded. -/
def abReady : Decoder := { ab with pad := 4, padValid := true, bytes := [0x10] }

def abDone : Decoder := { abReady with state := .done, out := [0x61, 0x61, 0x61, 0x62], nout := 4 }

/-- a:"0" committed, b:"1" pending. -/
def aPendingB : Decoder :=
  { freshDecoder with
    sym := [[0x61]], node := [⟨some 1, none, none⟩, ⟨none, none, some 0⟩], psym := [0x62],
    pcode := [true] }

/-- Every capacity at its least. -/
def tiny : Config :=
  { Config.huf1 with
    nSym := 1, wMax := 1, streamCap := 1, maxCodeLen := 1, byteCap := 1, dnodeCap := 2,
    outCap := 1 }

def tinyState (e : Encoder) (d : Decoder) : State :=
  { State.reset with cfg := tiny, enc := e, dec := d }

/-- One symbol that fills every list of `tiny`. -/
def full : Encoder := { freshEncoder .char with sym := [[0x61]], freq := [1], stream := [0] }

def fullDec : Decoder :=
  { freshDecoder with
    sym := [[0x61]], node := [⟨some 1, none, none⟩, ⟨none, none, some 0⟩], psym := [0x62],
    pcode := [true], bytes := [0] }

/-! ### Well-formedness: an ill-formed term for each check -/

theorem test_huf1_wf : Config.huf1.wf = true ∧ Config.huf1.balanced = true := by decide
theorem test_nSym_refused : ({ Config.huf1 with nSym := 0 }).wf = false ∧
    ({ Config.huf1 with nSym := 2 ^ 31 + 1 }).wf = false := by decide
theorem test_wMax_refused : ({ Config.huf1 with wMax := 0 }).wf = false ∧
    ({ Config.huf1 with wMax := 2 ^ 32 }).wf = false := by decide
theorem test_streamCap_refused : ({ Config.huf1 with streamCap := 0 }).wf = false ∧
    ({ Config.huf1 with streamCap := 2 ^ 32 }).wf = false := by decide
theorem test_maxCodeLen_refused : ({ Config.huf1 with maxCodeLen := 0 }).wf = false ∧
    ({ Config.huf1 with maxCodeLen := 2 ^ 32 }).wf = false := by decide
theorem test_byteCap_refused : ({ Config.huf1 with byteCap := 0 }).wf = false ∧
    ({ Config.huf1 with byteCap := 2 ^ 28 + 1 }).wf = false := by decide
theorem test_dnodeCap_refused : ({ Config.huf1 with dnodeCap := 0 }).wf = false ∧
    ({ Config.huf1 with dnodeCap := 2 ^ 32 }).wf = false := by decide
theorem test_outCap_refused : ({ Config.huf1 with outCap := 0 }).wf = false ∧
    ({ Config.huf1 with outCap := 2 ^ 32 }).wf = false := by decide
theorem test_alpha_refused : (AlphaClass.custom 0 []).wf = false ∧
    ({ Config.huf1 with alpha := .custom 0 [] }).wf = false := by decide
theorem test_unbalanced : ({ Config.huf1 with dnodeCap := 8191 }).balanced = false ∧
    ({ Config.huf1 with byteCap := 8388607 }).balanced = false ∧
    ({ Config.huf1 with outCap := 67108863 }).balanced = false := by decide
theorem test_command_word_refused : CommandWord.wf 0x00000110 = false ∧
    CommandWord.wf 0x00000010 = true := by decide
theorem test_memory_refused :
    (tinyState { full with stream := [0, 0] } Decoder.empty).memoryWf = false ∧
    (tinyState full { fullDec with bytes := [0, 0] }).memoryWf = false ∧
    (tinyState full fullDec).memoryWf = true := by decide

/-! ### Decoding: each command's word, written out from 30_encoding R100 and R103 -/

theorem test_decode_control :
    decode 0b00000000000000000000000000000000#32 = .ok .nop ∧
    decode 0b00000000000000000000000000000001#32 = .ok .sreset := by decide
theorem test_decode_encoder :
    decode 0b00000000000000000000000000010000#32 = .ok .encStart ∧
    decode 0b00000000000000000000000000010001#32 = .ok .encPush ∧
    decode 0b00000000000000000000000000010010#32 = .ok .encEnd ∧
    decode 0b00000000000000000000000000010011#32 = .ok .encBuild ∧
    decode 0b00000000000000000000000000010100#32 = .ok .encAssign ∧
    decode 0b00000000000000000000000000010101#32 = .ok .encPack := by decide
theorem test_decode_encoder_readouts :
    decode 0b00000000000000000000000000100000#32 = .ok .encRdNsym ∧
    decode 0b00000000000000000000000000100001#32 = .ok .encRdSymlen ∧
    decode 0b00000000000000000000000000100010#32 = .ok .encRdSymcp ∧
    decode 0b00000000000000000000000000100011#32 = .ok .encRdFreq ∧
    decode 0b00000000000000000000000000100100#32 = .ok .encRdCodelen ∧
    decode 0b00000000000000000000000000100101#32 = .ok .encRdCodebit ∧
    decode 0b00000000000000000000000000100110#32 = .ok .encRdNstream ∧
    decode 0b00000000000000000000000000100111#32 = .ok .encRdNbytes ∧
    decode 0b00000000000000000000000000101000#32 = .ok .encRdByte ∧
    decode 0b00000000000000000000000000101001#32 = .ok .encRdPad := by decide
theorem test_decode_decoder :
    decode 0b00000000000000000000000000110000#32 = .ok .decStart ∧
    decode 0b00000000000000000000000000110001#32 = .ok .decAddCp ∧
    decode 0b00000000000000000000000000110010#32 = .ok .decAddBit ∧
    decode 0b00000000000000000000000000110011#32 = .ok .decCommit ∧
    decode 0b00000000000000000000000000110100#32 = .ok .decSetPad ∧
    decode 0b00000000000000000000000000110101#32 = .ok .decPushByte ∧
    decode 0b00000000000000000000000000110110#32 = .ok .decRun := by decide
theorem test_decode_decoder_readouts :
    decode 0b00000000000000000000000001000000#32 = .ok .decRdNsym ∧
    decode 0b00000000000000000000000001000001#32 = .ok .decRdOutlen ∧
    decode 0b00000000000000000000000001000010#32 = .ok .decRdOutcp ∧
    decode 0b00000000000000000000000001000011#32 = .ok .decRdNent := by decide
/-- The bounds of each illegal range (30_encoding R105). -/
theorem test_decode_refuses :
    ([0x02, 0x0F, 0x16, 0x1F, 0x2A, 0x2F, 0x37, 0x3F, 0x44, 0xFF] : List Word).all
      (fun w => decode w == .error .unlistedOpcode) = true ∧
    ([0x100, 0x110, 0x80000000] : List Word).all
      (fun w => decode w == .error .reservedBits) = true := by decide
theorem test_table_word : decodeTableWord 32 0x33 = some .decCommit ∧
    decodeTableWord 8 0x33 = some .decCommit ∧ decodeTableWord 32 0x133 = none := by decide
theorem test_withFetchWord_runs_the_word :
    step (State.reset.withFetchWord 32 0x10) = exec .encStart State.reset := by rfl

/-! ### The register window (95_test_vectors CTL1 to CTL6, CTL12) -/

/-- The host reads of a state, in order. -/
def reads (s : State) (offs : List Nat) : List Word := offs.map (registerValue s)

theorem test_reset_reads : reads State.reset [0x00, 0x14, 0x10, 0x08, 0x18, 0x1C] =
    [0x48554631, 0, 0, 0, 0, 0] := by decide
theorem test_constant_reads :
    reads State.reset [0x20, 0x24, 0x3C, 0x40, 0xFC, 0x04] = [4096, 64, 0, 0, 0, 0] := by decide
theorem test_reserved_write_is_ignored :
    writeRegister State.reset 0x80 0x12345678 = State.reset := by decide
theorem test_cmd_write_sets_busy :
    (writeRegister State.reset 0x04 0x11).status = 0x80000000 := by decide
theorem test_busy_write_is_refused :
    (match hostStep (.write 0x08 4 1) (State.reset.setPending (some 0)) with
      | .refused r => r == .busyViolation
      | _ => false) = true := by decide
theorem test_reset_discards_the_pending_command :
    (hardReset (State.reset.setPending (some 0x10))).status = 0 := by decide
theorem test_command_expands :
    HostLine.moves Config.huf1 (.command .encPush (some 0x61) none 0) =
      [.host (.write 0x08 4 0x61), .host (.write 0x04 4 0x11), .engine, .host (.read 0x14 4)] := by
  decide

/-- 30_encoding R118: the run ends before the reset that stands after its last operation. -/
theorem test_run_ends_before_a_later_reset :
    (match runProgram 3 (State.reset.setMoves [.host (.write 0x08 4 7), .reset]) with
      | .next t => decide (t.ended = true ∧ t.arg0 = 7 ∧ t.moves = [.reset])
      | _ => false) = true := by decide

/-! ### Commands, one step each -/

/-- CTL9. -/
theorem test_nop : (did .nop (illegal State.reset)).status = 0x00080000 := by decide
/-- CTL11. -/
theorem test_sreset :
    let s := did .sreset { withEnc encFailed with encErr := 0x103, decErr := 0x506 }
    s.status = 0x00080000 ∧ s.encErr = 0 ∧ s.decErr = 0 := by decide
/-- FA13. -/
theorem test_encStart :
    let s := did .encStart (State.reset.setArg0 1)
    s.status = 0x00010001 ∧ s.enc.mode = .word := by decide
/-- FA15. -/
theorem test_encStart_arg :
    let s := did .encStart (State.reset.setArg0 0x80000001)
    s.status = 0x0001030F ∧ s.encErr = 0x00000103 := by decide
/-- FA12. -/
theorem test_encPush :
    let e := (did .encPush ((withEnc hi).setArg0 0x2C)).enc
    e.sym = [[0x48, 0x69], [0x2C]] ∧ e.freq = [1, 1] ∧ e.stream = [0, 1] ∧ e.word = [] := by decide
/-- FA22. -/
theorem test_encPush_state :
    (did .encPush (State.reset.setArg0 0x110000)).encErr = 0x00000102 := by decide
/-- FA11, closed by ENC_END: one symbol. -/
theorem test_encEnd :
    let s := did .encEnd (withEnc hi)
    s.result = 1 ∧ s.enc.sym = [[0x48, 0x69]] ∧ s.status = 0x00010002 := by decide
/-- TB2. -/
theorem test_encBuild :
    let s := did .encBuild (withEnc { aaab with
      sym := [[0x61], [0x62], [0x63], [0x64]], freq := [1, 1, 1, 1], stream := [0, 1, 2, 3] })
    s.enc.node.drop 4 = [.internal 1 0 2, .internal 3 2 2, .internal 5 4 4] ∧ s.result = 7 := by
  decide
/-- TB3. -/
theorem test_encBuild_weights :
    (did .encBuild (withEnc abra)).enc.node = abraBuilt.node ∧
    (did .encBuild (withEnc abra)).enc.root = some 8 := by decide
/-- 43_code_assigner R200, the example. -/
theorem test_encAssign :
    let s := did .encAssign (withEnc abraBuilt)
    s.enc.code = [[true], [false, false, true], [false, false, false], [false, true, true],
      [false, true, false]] ∧ s.result = 3 := by decide
/-- T3. -/
theorem test_encAssign_one : (did .encAssign (withEnc zzzBuilt)).enc.code = [[false]] := by decide
/-- T1. -/
theorem test_encPack :
    let s := did .encPack (withEnc aaabAssigned)
    s.enc.bytes = [0x10] ∧ s.enc.pad = 4 ∧ s.result = 1 := by decide
theorem test_encRdNsym : (did .encRdNsym (withEnc abra)).result = 5 := by decide
theorem test_encRdSymlen : (did .encRdSymlen ((withEnc aaab).setArg0 1)).result = 1 := by decide
theorem test_encRdSymcp : (did .encRdSymcp ((withEnc aaab).setArg0 1)).result = 0x62 := by decide
theorem test_encRdSymcp_sel :
    (did .encRdSymcp (((withEnc aaab).setArg0 1).setArg1 1)).encErr = 0x00000704 := by decide
theorem test_encRdFreq : (did .encRdFreq (withEnc aaab)).result = 3 := by decide
theorem test_encRdCodelen :
    (did .encRdCodelen ((withEnc aaabAssigned).setArg0 1)).result = 1 := by decide
theorem test_encRdCodebit :
    (did .encRdCodebit ((withEnc aaabAssigned).setArg0 1)).result = 1 := by decide
theorem test_encRdNstream : (did .encRdNstream (withEnc abra)).result = 11 := by decide
theorem test_encRdNbytes : (did .encRdNbytes (withEnc aaabPacked)).result = 1 := by decide
theorem test_encRdByte : (did .encRdByte (withEnc aaabPacked)).result = 0x10 := by decide
theorem test_encRdPad : (did .encRdPad (withEnc aaabPacked)).result = 4 := by decide
/-- 46_table_loader R270, the example. -/
theorem test_decStart : (did .decStart State.reset).status = 0x00050010 := by decide
theorem test_decAddCp :
    (did .decAddCp ((withDec freshDecoder).setArg0 0x61)).dec.psym = [0x61] := by decide
theorem test_decAddBit :
    (did .decAddBit ((withDec { freshDecoder with pcode := [true] }).setArg0 0)).dec.pcode =
      [true, false] := by decide
theorem test_decAddBit_two :
    (did .decAddBit ((withDec freshDecoder).setArg0 2)).decErr = 0x00000506 := by decide
/-- 46_table_loader R273, the example. -/
theorem test_decCommit :
    let s := did .decCommit (withDec aPendingB)
    s.result = 1 ∧ s.dec.node = ab.node ∧ s.dec.sym = ab.sym ∧ s.dec.psym = [] := by decide
/-- A code that has a committed code as a prefix (46_table_loader R275). -/
theorem test_decCommit_conflict :
    (did .decCommit (withDec { aPendingB with pcode := [false, true] })).decErr = 0x00000506 := by
  decide
/-- 46_table_loader R277, the examples. -/
theorem test_decSetPad :
    let d := (did .decSetPad ((withDec freshDecoder).setArg0 4)).dec
    d.pad = 4 ∧ d.padValid = true := by decide
theorem test_decSetPad_eight :
    (did .decSetPad ((withDec freshDecoder).setArg0 8)).decErr = 0x00000506 := by decide
theorem test_decPushByte :
    (did .decPushByte ((withDec freshDecoder).setArg0 0x10)).dec.bytes = [0x10] := by decide
/-- T1. -/
theorem test_decRun :
    let s := did .decRun (withDec abReady)
    s.result = 4 ∧ s.dec.out = [0x61, 0x61, 0x61, 0x62] ∧ s.status = 0x00060020 := by decide
/-- No padding count: stage ARTIFACT_LOAD (47_bitstream_walker R310). -/
theorem test_decRun_no_pad :
    (did .decRun (withDec { abReady with padValid := false })).decErr = 0x00000506 := by decide
theorem test_decRdNsym : (did .decRdNsym (withDec abDone)).result = 4 := by decide
theorem test_decRdOutlen : (did .decRdOutlen (withDec abDone)).result = 4 := by decide
/-- 48_decoder_readout R342, the example. -/
theorem test_decRdOutcp : (did .decRdOutcp ((withDec abDone).setArg0 3)).result = 0x62 := by decide
/-- 48_decoder_readout R343, the example. -/
theorem test_decRdNent : (did .decRdNent (withDec ab)).result = 2 := by decide

/-! ### Witnesses: for every statement with hypotheses, inputs that meet them, one per clause -/

theorem witness_DecodeIsTheExactInverseOfEncode : Instr.encStart.wf = true := rfl

theorem witness_LegalWordsAreTheListedOpcodes :
    decode 0x43 = .ok .decRdNent ∧ decode 0x44 = .error .unlistedOpcode ∧
    decode 0x100 = .error .reservedBits ∧
    (latchWord State.reset 0x44).pending = some 0x44 ∧
    (latchWord State.reset 0x44).moves = .engine :: [] := by decide

theorem witness_EngineStepRunsTheDecodedCommand :
    let s := State.reset.setPending (some 0x10)
    s.pending = some 0x10 ∧ decode 0x10 = .ok .encStart ∧ s.moves = [] ∧
    (s.setMoves [.engine]).moves = [.engine] := by decide

theorem witness_IllegalWordReportsAndTouchesNoUnit :
    ((0x110 : Word).extractLsb' 8 24 ≠ 0) ∧
    ([0x02, 0x0F, 0x16, 0x1F, 0x2A, 0x2F, 0x37, 0x3F, 0x44, 0xFF] : List Word).all
      (fun w => decide ((0x02 ≤ w.toNat ∧ w.toNat ≤ 0x0F) ∨ (0x16 ≤ w.toNat ∧ w.toNat ≤ 0x1F) ∨
        (0x2A ≤ w.toNat ∧ w.toNat ≤ 0x2F) ∨ (0x37 ≤ w.toNat ∧ w.toNat ≤ 0x3F) ∨
        (0x44 ≤ w.toNat ∧ w.toNat ≤ 0xFF))) = true ∧
    (latchWord State.reset 0x02).pending = some 0x02 ∧
    (latchWord State.reset 0x02).moves = .engine :: [] := by decide

/-- No move; an engine move and a reset left; a host operation left; a command pending. -/
theorem witness_IdleBlockHoldsAllState :
    State.reset.moves = [] ∧ State.reset.pending = none ∧
    (State.reset.setMoves [.engine, .reset]).ended = true ∧
    (State.reset.setMoves [.engine, .host (.read 0x14 4)]).ended = false ∧
    (State.reset.setPending (some 0)).ended = false := by decide

/-- The bounds of the reserved offsets, and a read-only register. -/
theorem witness_IdleHostAccessesFollowTheRegisterMap :
    State.reset.pending = none ∧ (0x40 ≤ 0x40 ∧ 0x40 ≤ 0xFC ∧ 0x40 % 4 = 0) ∧
    (0x40 ≤ 0xFC ∧ 0xFC ≤ 0xFC ∧ 0xFC % 4 = 0) ∧
    (0x10 ≤ 0xFC ∧ 0x10 % 4 = 0 ∧ 0x10 ≠ 0x04 ∧ 0x10 ≠ 0x08 ∧ 0x10 ≠ 0x0C) := by decide

/-- The offsets next to the readable ones: 0x04, 0x1C and 0x40. -/
theorem witness_BusyHostAccessesAreLimited :
    (State.reset.setPending (some 0)).pending = some 0 ∧
    ([0x04, 0x1C, 0x40, 0xFC] : List Nat).all (fun off => decide (off ≤ 0xFC ∧ off % 4 = 0 ∧
      off ≠ 0x00 ∧ off ≠ 0x14 ∧ ¬ (0x20 ≤ off ∧ off ≤ 0x3C))) = true := by decide

theorem witness_UndefinedAccessesAreRefused :
    (255 < 256) ∧ (1 ≠ 4 ∧ 8 ≠ 4) ∧ (255 % 4 ≠ 0 ∧ 1 % 4 ≠ 0) := by decide

theorem witness_AccessOutsideTheWindowFaults :
    let s := { State.reset with cfg := { Config.huf1 with hufBase := 0x1000 } }
    0xFFF < s.cfg.hufBase ∧ s.cfg.hufBase + 256 ≤ 0x1100 := by decide

theorem witness_ResetStepClearsTheBlock :
    ((State.reset.setPending (some 0x10)).setMoves [.reset]).moves = .reset :: [] := by decide

/-- A host write of ARG0, one of ARG1, and a reset. -/
theorem witness_OnlyHostWritesAndResetChangeOperands :
    let w0 := State.reset.setMoves [.host (.write 0x08 4 7)]
    let w1 := State.reset.setMoves [.host (.write 0x0C 4 9)]
    let r := ((State.reset.setArg0 7).setArg1 9).setMoves [.reset]
    exec .nop State.reset = .next (State.reset.setReport 0 .ok .control) ∧
    step w0 = .next (State.reset.setArg0 7) ∧ State.reset.setArg0 7 ≠ w0 ∧
    (State.reset.setArg0 7).arg0 ≠ w0.arg0 ∧
    step w1 = .next (State.reset.setArg1 9) ∧ (State.reset.setArg1 9).arg1 ≠ w1.arg1 ∧
    step r = .next State.reset ∧ State.reset.arg0 ≠ r.arg0 ∧ State.reset.arg1 ≠ r.arg1 := by
  refine ⟨rfl, rfl, ?_, ?_, rfl, ?_, rfl, ?_, ?_⟩ <;> decide

theorem witness_EveryCommandCompletesWithinItsFrame :
    (0x08 ≠ 0x10 ∧ 0x08 ≠ 0x14 ∧ 0x08 ≠ 0x18 ∧ 0x08 ≠ 0x1C) := by decide

theorem witness_ConstantRegistersNeverChange :
    step State.reset = .next State.reset ∧ (0x20 ≤ 0x20 ∧ 0x3C ≤ 0x3C) := ⟨rfl, by decide⟩

theorem witness_CommandsLeaveTheOtherUnitAlone :
    exec .encStart State.reset = .next (did .encStart State.reset) ∧ isEncoderCommand .encStart ∧
    exec .decStart State.reset = .next (did .decStart State.reset) ∧ isDecoderCommand .decStart := by
  refine ⟨rfl, ?_, rfl, ?_⟩ <;> constructor <;> decide

/-- Two states that agree on one unit and differ in the other. -/
theorem witness_CommandsDoNotSeeTheOtherUnit :
    let s := withEnc aaab
    let s' := { withEnc aaab with dec := ab, result := 5 }
    let d := withDec ab
    let d' := { withDec ab with enc := aaab, result := 5 }
    s.cfg = s'.cfg ∧ s.arg0 = s'.arg0 ∧ s.arg1 = s'.arg1 ∧ s.enc = s'.enc ∧ s.encErr = s'.encErr ∧
    s ≠ s' ∧ exec .encBuild s = .next (did .encBuild s) ∧
    exec .encBuild s' = .next (did .encBuild s') ∧ isEncoderCommand .encBuild ∧
    d.dec = d'.dec ∧ d.decErr = d'.decErr ∧ d ≠ d' ∧ isDecoderCommand .decRdNent ∧
    exec .decRdNent d = .next (did .decRdNent d) ∧
    exec .decRdNent d' = .next (did .decRdNent d') := by
  refine ⟨rfl, rfl, rfl, rfl, rfl, by decide, rfl, rfl, ⟨by decide, by decide⟩, rfl, rfl,
    by decide, ⟨by decide, by decide⟩, rfl, rfl⟩

/-- An encoder command and a decoder command that fail in IDLE, and the table check of DEC_RUN. -/
theorem witness_FailingCommandEntersErrorAndRecordsTheCause :
    let s := latchWord State.reset (encode .encPush)
    let d := latchWord (withDec { abReady with padValid := false }) (encode .decRun)
    s.pending = some (encode .encPush) ∧ s.moves = .engine :: [] ∧
    step s = .next ((did .encPush (s.setMoves [])).setPending none) ∧
    (did .encPush (s.setMoves [])).lastRc ≠ .ok ∧ isEncoderCommand .encPush ∧
    d.pending = some (encode .decRun) ∧ d.moves = .engine :: [] ∧
    step d = .next ((did .decRun (d.setMoves [])).setPending none) ∧
    (did .decRun (d.setMoves [])).lastRc ≠ .ok ∧ isDecoderCommand .decRun := by
  refine ⟨rfl, rfl, rfl, by decide, ⟨by decide, by decide⟩, rfl, rfl, rfl, by decide, by decide,
    by decide⟩

/-- IDLE, and ERROR with an earlier cause. -/
theorem witness_OutOfStateCommandsFailWithEState :
    encoderStates .encPush = some [.loading] ∧ State.reset.enc.state ∉ [EncState.loading] ∧
    (withEnc encFailed).enc.state ∉ [EncState.loading] ∧
    decoderStates .decRun = some [.load] ∧ State.reset.dec.state ∉ [DecState.load] ∧
    (withDec abDone).dec.state ∉ [DecState.load] := by decide

theorem witness_SuccessfulCommandsMoveTheUnitByTheTable :
    exec .encBuild (withEnc aaab) = .next (did .encBuild (withEnc aaab)) ∧
    (did .encBuild (withEnc aaab)).lastRc = .ok ∧ isEncoderCommand .encBuild ∧
    exec .decRun (withDec abReady) = .next (did .decRun (withDec abReady)) ∧
    (did .decRun (withDec abReady)).lastRc = .ok ∧ isDecoderCommand .decRun ∧
    encoderStates .encBuild = some [.analyzed] ∧ decoderStates .decRun = some [.load] := by
  refine ⟨rfl, by decide, ⟨by decide, by decide⟩, rfl, by decide, ⟨by decide, by decide⟩, rfl, rfl⟩

theorem witness_EncStartBeginsARun :
    State.reset.arg0 = 0 ∧ (State.reset.setArg0 1).arg0 = 1 ∧
    1 < (State.reset.setArg0 2).arg0.toNat := by decide

/-- The bounds of the letters (00_scope R10), and code points just outside. -/
theorem test_ascii_letters :
    ([0x41, 0x5A, 0x61, 0x7A] : List CP).all (isAlpha .asciiLetters) = true ∧
    ([0x40, 0x5B, 0x60, 0x7B, 0xE9] : List CP).any (isAlpha .asciiLetters) = false := by decide

/-- A full stream; a full table and a new symbol; room for a new symbol; a known symbol. -/
theorem witness_EmitAddsOneOccurrence :
    full.freq.length = full.sym.length ∧ full.stream.length = tiny.streamCap ∧
    full.stream.length ≠ ({ tiny with streamCap := 2 }).streamCap ∧ [0x62] ∉ full.sym ∧
    full.sym.length = tiny.nSym ∧ full.sym.length ≠ ({ tiny with nSym := 2 }).nSym ∧
    [0x61] ∈ full.sym := by decide

/-- IDLE; a code point above the range; a full stream; the greatest code point. -/
theorem witness_EncPushTakesOneCodePoint :
    let s := (withEnc hi).setArg0 0x10FFFF
    let f := (tinyState full Decoder.empty).setArg0 0x61
    State.reset.enc.state ≠ .loading ∧ s.enc.state = .loading ∧ s.arg0.toNat ≤ 0x10FFFF ∧
    0x10FFFF < (s.setArg0 0x110000).arg0.toNat ∧ s.enc.analysisOk ∧
    s.enc.stream.length ≤ s.cfg.streamCap ∧ s.enc.sym.length ≤ s.cfg.nSym ∧
    s.enc.word.length ≤ s.cfg.wMax ∧ pushFits s.cfg s.enc s.arg0 ∧
    f.enc.state = .loading ∧ f.arg0.toNat ≤ 0x10FFFF ∧ f.enc.analysisOk ∧
    f.enc.stream.length ≤ f.cfg.streamCap ∧ f.enc.sym.length ≤ f.cfg.nSym ∧
    f.enc.word.length ≤ f.cfg.wMax ∧ ¬ pushFits f.cfg f.enc f.arg0 := by
  unfold pushFits symbolsFit; decide

/-- IDLE; a pending run that fits; one that does not fit a full stream. -/
theorem witness_EncEndClosesTheText :
    let s := withEnc hi
    let f := tinyState { full with mode := .word, word := [0x62] } Decoder.empty
    State.reset.enc.state ≠ .loading ∧ s.enc.state = .loading ∧ s.enc.analysisOk ∧
    s.enc.stream.length ≤ s.cfg.streamCap ∧ s.enc.sym.length ≤ s.cfg.nSym ∧
    symbolsFit s.cfg s.enc [s.enc.word] ∧ f.enc.state = .loading ∧ f.enc.analysisOk ∧
    f.enc.stream.length ≤ f.cfg.streamCap ∧ f.enc.sym.length ≤ f.cfg.nSym ∧
    ¬ symbolsFit f.cfg f.enc [f.enc.word] := by
  unfold symbolsFit; decide

/-- The empty text, and a run with two symbols in WORD mode. -/
theorem witness_AnalysisIsTheReferenceTokenisation :
    (analyse State.reset .char []).enc.state = .analyzed ∧
    (analyse State.reset .word [0x48, 0x69, 0x2C]).enc.state = .analyzed := by decide

theorem witness_MergeTakesTheTwoLeastNodes : [0, 1].Nodup ∧ 2 ≤ [0, 1].length := by decide

theorem witness_EncBuildCreatesTheTree : (withEnc aaab).enc.state = .analyzed ∧
    (withEnc zzz).enc.state = .analyzed ∧
    (withEnc { freshEncoder .char with state := .analyzed }).enc.state = .analyzed := by decide

theorem witness_EncBuildTreeIsFullAndAcyclic :
    (withEnc aaab).enc.state = .analyzed ∧ (withEnc aaab).enc.sym ≠ [] ∧
    exec .encBuild (withEnc aaab) = .next (did .encBuild (withEnc aaab)) := ⟨rfl, by decide, rfl⟩

theorem witness_EncBuildWeightsAreSums :
    (withEnc aaab).enc.state = .analyzed ∧ (withEnc aaab).enc.analysisOk ∧
    exec .encBuild (withEnc aaab) = .next (did .encBuild (withEnc aaab)) := ⟨rfl, by decide, rfl⟩

theorem witness_MergeWeightsNeverDecrease :
    (withEnc abra).enc.state = .analyzed ∧
    exec .encBuild (withEnc abra) = .next (did .encBuild (withEnc abra)) ∧
    (withEnc abra).enc.sym.length ≤ 5 ∧ 5 ≤ 8 ∧
    8 < (did .encBuild (withEnc abra)).enc.node.length := by
  refine ⟨rfl, rfl, ?_, ?_, ?_⟩ <;> decide

/-- Outside BUILT; no symbol, one symbol, several symbols; a code longer than the capacity. -/
theorem witness_EncAssignGivesLeafPaths :
    State.reset.enc.state ≠ .built ∧ emptyBuilt.state = .built ∧ emptyBuilt.treeOk ∧
    zzzBuilt.state = .built ∧ zzzBuilt.treeOk ∧ zzzBuilt.sym.length = 1 ∧
    abraBuilt.state = .built ∧ abraBuilt.treeOk ∧ 2 ≤ abraBuilt.sym.length ∧
    (3 ≤ Config.huf1.maxCodeLen ∧ tiny.maxCodeLen < 3) := by decide

theorem witness_EveryStepKeepsCodesPrefixFree :
    let s := withEnc aaabAssigned
    s.enc.treeOk ∧ s.enc.codesOk ∧ step s = .next s ∧
    step (latchWord s 0x15) = .next ((did .encPack s).setPending none) :=
  ⟨by decide, by decide, rfl, rfl⟩

/-- Outside ASSIGNED; more bytes than the capacity; bytes that fit. -/
theorem witness_EncPackPacksMostSignificantBitFirst :
    let s := withEnc aaabAssigned
    let f := tinyState { aaabAssigned with stream := List.replicate 9 0 } Decoder.empty
    let bits := fun e : Encoder => e.stream.flatMap fun i => e.code.getD i []
    State.reset.enc.state ≠ .assigned ∧ s.enc.state = .assigned ∧
    ((bits s.enc).length + 7) / 8 ≤ s.cfg.byteCap ∧ f.enc.state = .assigned ∧
    f.cfg.byteCap < ((bits f.enc).length + 7) / 8 ∧ 0 < (bits s.enc).length ∧
    (bits s.enc).length ≤ 7 := by decide

theorem witness_EncoderCountReadouts :
    abra.state ∈ [EncState.analyzed, .built, .assigned, .packed] ∧
    aaabPacked.state ∈ [EncState.packed] ∧
    State.reset.enc.state ∉ [EncState.analyzed, .built, .assigned, .packed] := by decide

/-- An index in range, one at the length, and a state outside the gate. -/
theorem witness_EncoderIndexedReadouts :
    aaabPacked.state ∈ [EncState.packed] ∧ aaabPacked.state ∈ [EncState.assigned, .packed] ∧
    aaabPacked.state ∈ [EncState.analyzed, .built, .assigned, .packed] ∧
    (aaabPacked.sym[1]?.map List.length) = some 1 ∧ (aaabPacked.sym[2]?.map List.length) = none ∧
    ((aaabPacked.sym[1]?.bind fun y => y[0]?).map BitVec.toNat) = some 0x62 ∧
    ((aaabPacked.sym[1]?.bind fun y => y[1]?).map BitVec.toNat) = none ∧
    (1 < aaabPacked.sym.length ∧ ¬ 2 < aaabPacked.sym.length) ∧
    ((aaabPacked.code.getD 1 [])[0]?.map Bool.toNat) = some 1 ∧
    ((aaabPacked.code.getD 1 [])[1]?.map Bool.toNat) = none ∧
    (aaabPacked.bytes[0]?.map BitVec.toNat) = some 0x10 ∧
    (aaabPacked.bytes[1]?.map BitVec.toNat) = none ∧
    encFailed.state ∉ [EncState.analyzed, .built, .assigned, .packed] := by decide

/-- IDLE; above the range; a full pending symbol; the greatest code point. -/
theorem witness_DecAddCpAppendsToThePendingSymbol :
    let s := (withDec freshDecoder).setArg0 0x10FFFF
    let f := tinyState Encoder.empty fullDec
    State.reset.dec.state ≠ .load ∧ s.dec.state = .load ∧
    0x10FFFF < (s.setArg0 0x110000).arg0.toNat ∧ s.arg0.toNat ≤ 0x10FFFF ∧
    s.dec.psym.length ≠ s.cfg.wMax ∧ f.dec.state = .load ∧ f.arg0.toNat ≤ 0x10FFFF ∧
    f.dec.psym.length = f.cfg.wMax := by decide

theorem witness_DecAddBitAppendsToThePendingCode :
    let s := (withDec freshDecoder).setArg0 1
    let f := tinyState Encoder.empty fullDec
    State.reset.dec.state ≠ .load ∧ s.dec.state = .load ∧ 1 < (s.setArg0 2).arg0.toNat ∧
    s.arg0.toNat ≤ 1 ∧ s.dec.pcode.length ≠ s.cfg.maxCodeLen ∧ f.dec.state = .load ∧
    f.arg0.toNat ≤ 1 ∧ f.dec.pcode.length = f.cfg.maxCodeLen := by decide

theorem witness_DecSetPadLoadsThePaddingCount :
    let s := (withDec freshDecoder).setArg0 7
    State.reset.dec.state ≠ .load ∧ s.dec.state = .load ∧ 7 < (s.setArg0 8).arg0.toNat ∧
    s.arg0.toNat = (7 : Fin 8).val := by decide

theorem witness_DecPushByteAppendsToTheStream :
    let s := (withDec freshDecoder).setArg0 0xFF
    let f := tinyState Encoder.empty fullDec
    State.reset.dec.state ≠ .load ∧ s.dec.state = .load ∧ 0xFF < (s.setArg0 0x100).arg0.toNat ∧
    s.arg0.toNat ≤ 0xFF ∧ s.dec.bytes.length ≠ s.cfg.byteCap ∧ f.dec.state = .load ∧
    f.arg0.toNat ≤ 0xFF ∧ f.dec.bytes.length = f.cfg.byteCap := by decide

/-- The tree of the decoder after a:"0", b:"1". -/
theorem ab_treeOk : ab.treeOk := by decide
theorem abReady_treeOk : abReady.treeOk := by decide
theorem aPendingB_treeOk : aPendingB.treeOk := by decide

theorem abReady_loadComplete : loadComplete abReady := ⟨rfl, rfl, rfl, rfl⟩

theorem ab_holds_a : abReady.holdsEntry [false] [0x61] := ⟨by decide, 1, 0, rfl, rfl, rfl⟩
theorem ab_holds_b : abReady.holdsEntry [true] [0x62] := ⟨by decide, 2, 1, rfl, rfl, rfl⟩

/-- In the tree of a:"0" the only path to a leaf is "0". -/
theorem aPendingB_no_conflict : ¬ codeConflict aPendingB := by
  rintro ⟨c, y, ⟨hc, k, j, hk, hj, -⟩, h⟩
  match c, hc with
  | true :: rest, _ => simp [follow, childOf, aPendingB, freshDecoder] at hk
  | false :: rest, _ => simp [aPendingB, List.cons_prefix_cons] at h

/-- Room for the entry; a full table; no room for the nodes. -/
theorem witness_DecCommitAddsExactlyThePendingEntry :
    let s := withDec aPendingB
    let full := { tinyState Encoder.empty aPendingB with cfg := tiny }
    let crowded := { tinyState Encoder.empty aPendingB with cfg := { tiny with nSym := 2 } }
    (s.dec.state = .load ∧ s.dec.treeOk ∧ s.dec.psym ≠ [] ∧ s.dec.pcode ≠ [] ∧
      s.dec.psym ∉ s.dec.sym ∧ ¬ codeConflict s.dec) ∧
    full.dec.sym.length = full.cfg.nSym ∧
    (crowded.dec.sym.length ≠ crowded.cfg.nSym ∧
      crowded.cfg.dnodeCap < crowded.dec.node.length + missingNodes crowded.dec) ∧
    (s.dec.sym.length ≠ s.cfg.nSym ∧
      s.dec.node.length + missingNodes s.dec ≤ s.cfg.dnodeCap) ∧
    full.dec = s.dec ∧ crowded.dec = s.dec :=
  ⟨⟨rfl, aPendingB_treeOk, by decide, by decide, by decide, aPendingB_no_conflict⟩, by decide,
    by decide, by decide, rfl, rfl⟩

/-- An empty symbol, an empty code, a committed symbol, a committed code. -/
theorem witness_DecCommitRefusesExactlyTheMalformedEntries :
    ab.state = .load ∧ ab.treeOk ∧ ab.psym = [] ∧ ab.pcode = [] ∧
    ({ ab with psym := [0x61] }).psym ∈ ab.sym ∧
    codeConflict { ab with psym := [0x63], pcode := [false, true] } ∧
    exec .decCommit (withDec ab) = .next (did .decCommit (withDec ab)) ∧
    (did .decCommit (withDec ab)).lastRc = .eTable :=
  ⟨rfl, ab_treeOk, rfl, rfl, by decide,
    ⟨[false], [0x61], ⟨by decide, 1, 0, rfl, rfl, rfl⟩, .inr (.inl ⟨[true], rfl⟩)⟩, rfl,
    by decide⟩

/-- Outside LOAD; each table check; a padding count above the loaded bits. -/
theorem witness_DecRunChecksTheArtifactsFirst :
    State.reset.dec.state ≠ .load ∧ aPendingB.state = .load ∧ aPendingB.psym ≠ [] ∧
    ({ ab with pcode := [true] }).pcode ≠ [] ∧ ab.padValid = false ∧
    loadComplete { abReady with bytes := [] } ∧
    8 * ({ abReady with bytes := [] }).bytes.length < abReady.pad.val :=
  ⟨by decide, rfl, by decide, by decide, rfl, ⟨rfl, rfl, rfl, rfl⟩, by decide⟩

/-- The codes of "aaab" in `abReady`'s table. -/
def aaabParts : List (Code × Symbol) :=
  [([false], [0x61]), ([false], [0x61]), ([false], [0x61]), ([true], [0x62])]

theorem abReady_holds_aaab : heldAll abReady aaabParts := by
  intro p hp
  simp only [aaabParts, List.mem_cons, List.not_mem_nil, or_false] at hp
  rcases hp with rfl | rfl | rfl | rfl
  · exact ab_holds_a
  · exact ab_holds_a
  · exact ab_holds_a
  · exact ab_holds_b

theorem witness_DecRunDecodesASequenceOfCodes :
    loadComplete abReady ∧ abReady.treeOk ∧ abReady.pad.val ≤ 8 * abReady.bytes.length ∧
    heldAll abReady aaabParts ∧ loadedBits abReady = codesOf aaabParts ∧
    (textOf aaabParts).length ≤ Config.huf1.outCap :=
  ⟨abReady_loadComplete, abReady_treeOk, by decide, abReady_holds_aaab, by decide, by decide⟩

/-- An empty table and one valid bit: no sequence of codes has any bit. -/
def noTable : Decoder := { freshDecoder with padValid := true, pad := 7, bytes := [0] }

theorem noTable_holds_nothing (c : Code) (y : Symbol) : ¬ noTable.holdsEntry c y := by
  rintro ⟨hc, k, j, hk, -, -⟩
  match c, hc with
  | b :: rest, _ => cases b <;> simp [follow, childOf, noTable, freshDecoder, bareNode] at hk

theorem noTable_parts (parts : List (Code × Symbol)) (h : heldAll noTable parts) : parts = [] := by
  cases parts with
  | nil => rfl
  | cons p _ => exact absurd (h p (by simp)) (noTable_holds_nothing _ _)

theorem witness_DecRunRejectsEverythingElse :
    (loadComplete abReady ∧ abReady.treeOk ∧ abReady.pad.val ≤ 8 * abReady.bytes.length ∧
      exec .decRun (withDec abReady) = .next (did .decRun (withDec abReady)) ∧
      (did .decRun (withDec abReady)).lastRc = .ok) ∧
    loadComplete noTable ∧ noTable.treeOk ∧ noTable.pad.val ≤ 8 * noTable.bytes.length ∧
    (∀ parts, heldAll noTable parts → codesOf parts <+: loadedBits noTable →
      (textOf parts).length ≤ Config.huf1.outCap) ∧
    (¬ ∃ parts, heldAll noTable parts ∧ loadedBits noTable = codesOf parts) ∧
    heldAll (tinyState Encoder.empty abReady).dec (aaabParts.take 2) ∧
    codesOf (aaabParts.take 2) <+: loadedBits (tinyState Encoder.empty abReady).dec ∧
    (tinyState Encoder.empty abReady).cfg.outCap < (textOf (aaabParts.take 2)).length := by
  refine ⟨⟨abReady_loadComplete, abReady_treeOk, by decide, rfl, by decide⟩, ⟨rfl, rfl, rfl, rfl⟩,
    by decide, by decide, fun parts h _ => ?_, ?_,
    fun p hp => abReady_holds_aaab p (List.mem_of_mem_take hp), ?_, by decide⟩
  · rw [noTable_parts parts h]; decide
  · rintro ⟨parts, h, he⟩
    rw [noTable_parts parts h] at he
    exact absurd he (by decide)
  · exact ⟨[false, true], by decide⟩

/-- 95_test_vectors BW5: the padding bits set to 1. -/
theorem witness_PaddingBitsAreNotChecked :
    let s := withDec abReady
    ([0x1F] : List Byte).length = s.dec.bytes.length ∧
    (∀ p < 8 * ([0x1F] : List Byte).length - s.dec.pad.val,
      packedBit [0x1F] p = packedBit s.dec.bytes p) ∧
    exec .decRun s = .next (did .decRun s) ∧
    exec .decRun (s.setDec { s.dec with bytes := [0x1F] }) =
      .next (did .decRun (s.setDec { s.dec with bytes := [0x1F] })) :=
  ⟨rfl, by decide, rfl, rfl⟩

theorem witness_FailedRunLeavesNoReadableText :
    exec .decRun (withDec noTable) = .next (did .decRun (withDec noTable)) ∧
    (did .decRun (withDec noTable)).lastRc ≠ .ok := ⟨rfl, by decide⟩

theorem witness_DecoderReadouts :
    abDone.state ∈ [DecState.done] ∧ ab.state ∈ [DecState.load, .done] ∧
    State.reset.dec.state ∉ [DecState.load, .done] ∧ ab.state ∉ [DecState.done] ∧
    abDone.out[3]? = some 0x62 ∧ abDone.out.length ≤ 4 ∧ ab.state ≠ .done := by decide

/-- "aaab" encoded; its artifacts loaded with the entries in reverse order. -/
theorem witness_RoundTripThroughTheCommands :
    let e := encodeText State.reset .char [0x61, 0x61, 0x61, 0x62]
    State.reset.cfg.wf = true ∧ State.reset.cfg.balanced = true ∧ e.enc.state = .packed ∧
    e.cfg = State.reset.cfg ∧ [1, 0].Perm (List.range e.enc.sym.length) ∧
    (loadArtifacts e.enc [1, 0] e).dec.sym = [[0x62], [0x61]] := by decide

/-- The same entries under other node ids and indices. -/
def abOther : Decoder :=
  { abReady with
    sym := [[0x62], [0x61]],
    node := [⟨some 2, some 1, none⟩, ⟨none, none, some 0⟩, ⟨none, none, some 1⟩] }

theorem abReady_holds_iff (c : Code) (y : Symbol) :
    abReady.holdsEntry c y ↔ (c = [false] ∧ y = [0x61]) ∨ (c = [true] ∧ y = [0x62]) := by
  constructor
  · rintro ⟨hc, k, j, hk, hj, hy⟩
    match c, hc with
    | [true], _ | [false], _ =>
      simp only [follow, childOf, abReady, ab, freshDecoder] at hk
      cases hk; cases hj; cases hy; simp
    | true :: b :: rest, _ | false :: b :: rest, _ =>
      cases b <;> simp [follow, childOf, abReady, ab, freshDecoder] at hk
  · rintro (⟨rfl, rfl⟩ | ⟨rfl, rfl⟩)
    · exact ab_holds_a
    · exact ab_holds_b

theorem abOther_holds_iff (c : Code) (y : Symbol) :
    abOther.holdsEntry c y ↔ (c = [false] ∧ y = [0x61]) ∨ (c = [true] ∧ y = [0x62]) := by
  constructor
  · rintro ⟨hc, k, j, hk, hj, hy⟩
    match c, hc with
    | [true], _ | [false], _ =>
      simp only [follow, childOf, abOther, abReady, ab, freshDecoder] at hk
      cases hk; cases hj; cases hy; simp
    | true :: b :: rest, _ | false :: b :: rest, _ =>
      cases b <;> simp [follow, childOf, abOther, abReady, ab, freshDecoder] at hk
  · rintro (⟨rfl, rfl⟩ | ⟨rfl, rfl⟩)
    · exact ⟨by decide, 2, 1, rfl, rfl, rfl⟩
    · exact ⟨by decide, 1, 0, rfl, rfl, rfl⟩

theorem witness_DecRunDependsOnTheEntriesAlone :
    loadComplete abReady ∧ loadComplete abOther ∧ abReady.treeOk ∧ abOther.treeOk ∧
    abReady.pad = abOther.pad ∧ abReady.bytes = abOther.bytes ∧
    (∀ c y, abReady.holdsEntry c y ↔ abOther.holdsEntry c y) ∧ abReady ≠ abOther ∧
    exec .decRun (withDec abReady) = .next (did .decRun (withDec abReady)) ∧
    exec .decRun (withDec abOther) = .next (did .decRun (withDec abOther)) ∧
    (did .decRun (withDec abReady)).dec.state = .done :=
  ⟨abReady_loadComplete, ⟨rfl, rfl, rfl, rfl⟩, abReady_treeOk, by decide, rfl, rfl,
    fun c y => (abReady_holds_iff c y).trans (abOther_holds_iff c y).symm, by decide, rfl, rfl,
    by decide⟩

theorem witness_DecodingAnEncodedTextGivesTheText :
    let e := encodeText State.reset .char [0x61, 0x61, 0x61, 0x62]
    e.enc.state = .packed ∧
    ([0x61, 0x61, 0x61, 0x62] : List CP).length ≤ State.reset.cfg.outCap ∧
    (withDec abReady).cfg = State.reset.cfg ∧ ArtifactsLoaded e.enc (withDec abReady).dec := by
  refine ⟨by decide, by decide, rfl, rfl, abReady_treeOk, rfl, rfl, rfl, by decide, by decide, ?_⟩
  have h : (encodeText State.reset .char [0x61, 0x61, 0x61, 0x62]).enc = aaabPacked := by decide
  rw [h]
  intro i hi
  match i, hi with
  | 0, _ => exact ab_holds_a
  | 1, _ => exact ab_holds_b
  | n + 2, hi => simp [aaabPacked, aaabAssigned, aaabBuilt, aaab] at hi

/-- A step that grows a memory, from a state within its capacities. -/
theorem witness_EveryStepKeepsMemoriesWithinCapacity :
    let s := latchWord ((withEnc (freshEncoder .char)).setArg0 0x61) (encode .encPush)
    s.cfg.wf = true ∧ s.memoryWf = true ∧ s.enc.analysisOk ∧
    step s = .next ((did .encPush (s.setMoves [])).setPending none) ∧
    (did .encPush (s.setMoves [])).enc.stream = [0] := by
  refine ⟨by decide, by decide, by decide, rfl, by decide⟩

theorem witness_EveryStepKeepsTheAnalysisConsistent :
    let s := latchWord ((withEnc hi).setArg0 0x2C) (encode .encPush)
    s.enc.analysisOk ∧ step s = .next ((did .encPush (s.setMoves [])).setPending none) :=
  ⟨by decide, rfl⟩

/-- A step into ERROR from a state with honest ERR registers. -/
theorem witness_EveryStepKeepsErrRegistersHonest :
    let s := latchWord State.reset (encode .encPush)
    s.errOk ∧ step s = .next ((did .encPush (s.setMoves [])).setPending none) := by
  refine ⟨⟨⟨fun h => ?_, fun _ => rfl⟩, fun h => ?_, fun _ => rfl⟩, rfl⟩
  · exact absurd h (by decide)
  · exact absurd h (by decide)

theorem witness_EveryStepKeepsTheDecodeTree :
    let s := latchWord (withDec aPendingB) (encode .decCommit)
    s.dec.treeOk ∧ step s = .next ((did .decCommit (s.setMoves [])).setPending none) :=
  ⟨aPendingB_treeOk, rfl⟩

/-- Two different states with the same defined part, and a command to carry out. -/
theorem witness_UndefinedFieldsAreUnobservable :
    let s := latchWord State.reset (encode .encStart)
    let t := s.setEnc { aaab with state := .idle }
    s.defined = t.defined ∧ s ≠ t := by decide

end Sys2Proof.Tests
end

section
/-! PROOFS, part 1. What a step can do: to the machine (`step_next_cases`), to the encoder unit
(`step_encMove`) and to the decoder unit (`step_decMove`). Every invariant of a unit is a case
analysis of its move. -/

namespace Sys2Proof.Machine

/-! ### Computations that may fail -/

/-- A mapped computation succeeds exactly with the image of a success. -/
theorem except_map_ok {ε α β : Type} {f : α → β} {x : Except ε α} {v : β} :
    x.map f = .ok v ↔ ∃ a, x = .ok a ∧ f a = v := by
  cases x <;> simp [Except.map]

/-- A sequence of two computations succeeds exactly when both do. -/
theorem except_bind_ok {ε α β : Type} {f : α → Except ε β} {x : Except ε α} {v : β} :
    x.bind f = .ok v ↔ ∃ a, x = .ok a ∧ f a = .ok v := by
  cases x <;> simp [Except.bind]

/-- A map after two computations in a row is a map after the second. -/
theorem except_map_bind {ε α β γ : Type} (g : β → γ) (f : α → Except ε β) (x : Except ε α) :
    (x.bind f).map g = x.bind fun v => (f v).map g := by
  cases x <;> rfl

theorem except_map_map {ε α β γ : Type} (g : β → γ) (f : α → β) (x : Except ε α) :
    (x.map f).map g = x.map fun v => g (f v) := by
  cases x <;> rfl

/-- Two computations with the same image succeed together or fail alike. -/
theorem except_map_eq_cases {ε α β : Type} {f : α → β} {x y : Except ε α}
    (h : x.map f = y.map f) :
    (∃ a b, x = .ok a ∧ y = .ok b ∧ f a = f b) ∨ ∃ e, x = .error e ∧ y = .error e := by
  cases x with
  | ok a =>
    cases y with
    | ok b => exact .inl ⟨a, b, rfl, rfl, Except.ok.inj h⟩
    | error e => cases h
  | error e =>
    cases y with
    | ok b => cases h
    | error e' => cases h; exact .inr ⟨e, rfl, rfl⟩

/-! ### The machine -/

/-- An access that answers a next state has the form the port asks for, and its effect answers. -/
theorem hostAccess_next {addr width : Nat} {s t : State}
    {effect : Nat → Host.Outcome State Fault Refusal}
    (h : hostAccess addr width s effect = .next t) :
    ∃ off, windowOffset s.cfg addr = some off ∧ width = 4 ∧ off % 4 = 0 ∧ effect off = .next t := by
  obtain ⟨-, he⟩ | ⟨off, hw, ⟨-, he⟩ | ⟨-, -, he⟩ | ⟨h4, ha, he⟩⟩ :=
    hostAccess_cases addr width s effect <;> rw [he] at h
  · cases h
  · cases h
  · cases h
  · exact ⟨off, hw, h4, ha, h⟩

/-- Everything a host move that answers a next state can do: a read or a write (20_memory R71). -/
theorem hostStep_next_cases {op : HostOp} {s t : State} (h : hostStep op s = .next t) :
    (∃ o, t = s.setObs o) ∨ ∃ off v, t = writeRegister s off v := by
  cases op with
  | read addr width =>
    obtain ⟨off, -, -, -, h⟩ := hostAccess_next h
    split at h
    · cases h
    · cases h; exact .inl ⟨_, rfl⟩
  | write addr width v =>
    obtain ⟨off, -, -, -, h⟩ := hostAccess_next h
    split at h
    · cases h
    · cases h; exact .inr ⟨off, v, rfl⟩

/-- A host write changes PENDING, ARG0 and ARG1 alone (20_memory R71). -/
theorem writeRegister_cases (s : State) (off : Nat) (v : Word) :
    writeRegister s off v = s.setPending (some v) ∨ writeRegister s off v = s.setArg0 v ∨
    writeRegister s off v = s.setArg1 v ∨ writeRegister s off v = s := by
  unfold writeRegister
  split
  · exact .inl rfl
  · exact .inr (.inl rfl)
  · exact .inr (.inr (.inl rfl))
  · exact .inr (.inr (.inr rfl))

/-- A host move touches neither the parameters, nor a unit, nor its ERR register (20_memory R75). -/
theorem hostStep_frame {op : HostOp} {s t : State} (h : hostStep op s = .next t) :
    t.cfg = s.cfg ∧ t.enc = s.enc ∧ t.dec = s.dec ∧ t.encErr = s.encErr ∧ t.decErr = s.decErr := by
  obtain ⟨o, rfl⟩ | ⟨off, v, rfl⟩ := hostStep_next_cases h
  · simp
  · obtain e | e | e | e := writeRegister_cases s off v <;> simp [e]

/-- The parts of an engine step: a command's meaning and PENDING cleared, an illegal word, or an
idle block (40_control R130, R134; 60_exceptions R374). -/
theorem engineStep_next_cases {s t : State} (h : engineStep s = .next t) :
    (∃ i u, exec i s = .next u ∧ t = u.setPending none) ∨ t = (illegal s).setPending none ∨
    t = s := by
  cases hp : s.pending with
  | none =>
    rw [engineStep_of_idle hp] at h
    cases h
    exact .inr (.inr rfl)
  | some w =>
    cases hd : decode w with
    | error r =>
      rw [engineStep_of_illegal hp hd] at h
      cases h
      exact .inr (.inl rfl)
    | ok i =>
      rw [engineStep_of_decode hp hd] at h
      cases hx : exec i s with
      | next u => rw [hx] at h; cases h; exact .inl ⟨i, u, hx, rfl⟩
      | fault f => rw [hx] at h; cases h
      | refused r => rw [hx] at h; cases h

/-- Everything a step that answers a next state can be: an engine step, a host move or a reset, each
from the state without the move just taken. -/
theorem step_next_cases {s t : State} (h : step s = .next t) :
    ∃ m, engineStep (s.setMoves m) = .next t ∨ (∃ op, hostStep op (s.setMoves m) = .next t) ∨
      t = hardReset (s.setMoves m) := by
  obtain ⟨-, hs⟩ | ⟨m, -, hs⟩ | ⟨op, m, -, hs⟩ | ⟨m, -, hs⟩ := step_cases s <;> rw [hs] at h
  · exact ⟨s.moves, .inl h⟩
  · exact ⟨m, .inl h⟩
  · exact ⟨m, .inr (.inl ⟨op, h⟩)⟩
  · cases h; exact ⟨m, .inr (.inr rfl)⟩

/-! ### Which codes a failure reports -/

/-- A result code `raise` may report: neither OK nor E_ILLEGAL (60_exceptions R360). -/
def ResultCode.IsFailure (rc : ResultCode) : Prop := rc ≠ .ok ∧ rc ≠ .eIllegal

/-- A computation whose errors are failure codes. -/
def FailsProperly {α : Type} (x : Except ResultCode α) : Prop := ∀ rc, x = .error rc → rc.IsFailure

theorem failsProperly_ok {α : Type} (v : α) : FailsProperly (.ok v) := fun _ h => nomatch h

theorem failsProperly_error {α : Type} {rc : ResultCode} (h : rc.IsFailure) :
    FailsProperly (.error rc : Except ResultCode α) := fun _ e => by cases e; exact h

theorem FailsProperly.bind {α β : Type} {x : Except ResultCode α} {f : α → Except ResultCode β}
    (hx : FailsProperly x) (hf : ∀ v, FailsProperly (f v)) : FailsProperly (x.bind f) := by
  cases x with
  | ok v => exact hf v
  | error rc => exact failsProperly_error (hx rc rfl)

theorem FailsProperly.map {α β : Type} {x : Except ResultCode α} (f : α → β)
    (hx : FailsProperly x) : FailsProperly (x.map f) := by
  cases x with
  | ok v => exact failsProperly_ok _
  | error rc => exact failsProperly_error (hx rc rfl)

theorem FailsProperly.ite {α : Type} {p : Prop} [Decidable p] {x y : Except ResultCode α}
    (hx : FailsProperly x) (hy : FailsProperly y) : FailsProperly (if p then x else y) := by
  split
  exacts [hx, hy]

theorem isFailure_eState : ResultCode.eState.IsFailure := ⟨by decide, by decide⟩
theorem isFailure_eArg : ResultCode.eArg.IsFailure := ⟨by decide, by decide⟩
theorem isFailure_eIndex : ResultCode.eIndex.IsFailure := ⟨by decide, by decide⟩
theorem isFailure_eCapacity : ResultCode.eCapacity.IsFailure := ⟨by decide, by decide⟩
theorem isFailure_eTable : ResultCode.eTable.IsFailure := ⟨by decide, by decide⟩
theorem isFailure_eCorrupt : ResultCode.eCorrupt.IsFailure := ⟨by decide, by decide⟩

theorem modeOperand_failsProperly (a : Word) : FailsProperly (modeOperand a) :=
  (failsProperly_ok _).ite ((failsProperly_ok _).ite (failsProperly_error isFailure_eArg))

theorem cpOperand_failsProperly (a : Word) : FailsProperly (cpOperand a) :=
  (failsProperly_ok _).ite (failsProperly_error isFailure_eArg)

theorem bitOperand_failsProperly (a : Word) : FailsProperly (bitOperand a) :=
  (failsProperly_ok _).ite ((failsProperly_ok _).ite (failsProperly_error isFailure_eTable))

theorem padOperand_failsProperly (a : Word) : FailsProperly (padOperand a) := by
  unfold padOperand
  split
  exacts [failsProperly_ok _, failsProperly_error isFailure_eTable]

theorem byteOperand_failsProperly (a : Word) : FailsProperly (byteOperand a) :=
  (failsProperly_ok _).ite (failsProperly_error isFailure_eArg)

theorem indexOperand_failsProperly {α : Type} (l : List α) (a : Word) :
    FailsProperly (indexOperand l a) := fun rc h => by
  obtain ⟨-, rfl⟩ := indexOperand_error.mp h
  exact isFailure_eIndex

theorem appendCapped_failsProperly {α : Type} (cap : Nat) (v : α) (l : List α) :
    FailsProperly (appendCapped cap v l) :=
  (failsProperly_error isFailure_eCapacity).ite (failsProperly_ok _)

theorem emit_failsProperly (c : Config) (y : Symbol) (e : Encoder) : FailsProperly (emit c y e) :=
  fun rc h => by rw [emit_error h]; exact isFailure_eCapacity

/-! The analyser's operations, each as the composition of its parts. -/

theorem emitWord_eq (c : Config) (e : Encoder) :
    emitWord c e =
      if e.word = [] then .ok e else (emit c e.word e).map fun e' => { e' with word := [] } := by
  unfold emitWord
  cases emit c e.word e <;> rfl

theorem pushCodePoint_eq (c : Config) (cp : CP) (e : Encoder) :
    pushCodePoint c cp e =
      match e.mode with
      | .char => emit c [cp] e
      | .word =>
        if isAlpha c.alpha cp then (appendCapped c.wMax cp e.word).map fun w => { e with word := w }
        else (emitWord c e).bind (emit c [cp]) := by
  unfold pushCodePoint
  cases e.mode with
  | char => rfl
  | word => cases appendCapped c.wMax cp e.word <;> cases emitWord c e <;> rfl

theorem encPushBody_eq (c : Config) (a : Word) (e : Encoder) :
    encPushBody c a e =
      (cpOperand a).bind fun cp => (pushCodePoint c cp e).map fun e' => (0, e') := by
  unfold encPushBody
  cases cpOperand a with
  | ok cp => cases h : pushCodePoint c cp e <;> simp [Except.bind, Except.map, h]
  | error rc => rfl

theorem encEndBody_eq (c : Config) (e : Encoder) :
    encEndBody c e =
      (emitWord c e).map fun e' => (countWord e'.sym.length, { e' with state := .analyzed }) := by
  unfold encEndBody
  cases emitWord c e <;> rfl

theorem emitWord_failsProperly (c : Config) (e : Encoder) : FailsProperly (emitWord c e) := by
  rw [emitWord_eq]
  exact (failsProperly_ok _).ite ((emit_failsProperly c _ e).map _)

theorem pushCodePoint_failsProperly (c : Config) (cp : CP) (e : Encoder) :
    FailsProperly (pushCodePoint c cp e) := by
  rw [pushCodePoint_eq]
  cases e.mode with
  | char => exact emit_failsProperly c _ e
  | word =>
    exact ((appendCapped_failsProperly _ _ _).map _).ite
      ((emitWord_failsProperly c e).bind fun e' => emit_failsProperly c _ e')

theorem encPushBody_failsProperly (c : Config) (a : Word) (e : Encoder) :
    FailsProperly (encPushBody c a e) := by
  rw [encPushBody_eq]
  exact (cpOperand_failsProperly a).bind fun cp => (pushCodePoint_failsProperly c cp e).map _

theorem encEndBody_failsProperly (c : Config) (e : Encoder) : FailsProperly (encEndBody c e) := by
  rw [encEndBody_eq]
  exact (emitWord_failsProperly c e).map _

theorem encAssignBody_failsProperly (c : Config) (e : Encoder) :
    FailsProperly (encAssignBody c e) :=
  (failsProperly_error isFailure_eCapacity).ite (failsProperly_ok _)

theorem encPackBody_failsProperly (c : Config) (e : Encoder) : FailsProperly (encPackBody c e) :=
  (failsProperly_error isFailure_eCapacity).ite (failsProperly_ok _)

theorem descend_failsProperly (nodes : List DecNode) (k d : Nat) (code : Code) :
    FailsProperly (descend nodes k d code) := by
  induction code generalizing k d with
  | nil => exact failsProperly_error isFailure_eTable
  | cons b rest ih =>
    unfold descend
    split
    · exact failsProperly_ok _
    · exact (failsProperly_error isFailure_eTable).ite (ih _ _)

theorem walk_failsProperly (c : Config) (d : Decoder) (bits : List Bit) (k : Nat) (out : List CP)
    (cnt : Nat) : FailsProperly (walk c d bits k out cnt) := by
  induction bits generalizing k out cnt with
  | nil => exact (failsProperly_error isFailure_eCorrupt).ite (failsProperly_ok _)
  | cons b bits ih =>
    unfold walk
    split
    · exact failsProperly_error isFailure_eCorrupt
    · split
      · exact ih _ _ _
      · exact (failsProperly_error isFailure_eCapacity).ite (ih _ _ _)

theorem decAddCpBody_failsProperly (c : Config) (a : Word) (d : Decoder) :
    FailsProperly (decAddCpBody c a d) :=
  (cpOperand_failsProperly a).bind fun _ => (appendCapped_failsProperly _ _ _).map _

theorem decAddBitBody_failsProperly (c : Config) (a : Word) (d : Decoder) :
    FailsProperly (decAddBitBody c a d) :=
  (bitOperand_failsProperly a).bind fun _ => (appendCapped_failsProperly _ _ _).map _

theorem decCommitBody_failsProperly (c : Config) (d : Decoder) :
    FailsProperly (decCommitBody c d) :=
  have table {α : Type} := failsProperly_error (α := α) isFailure_eTable
  have capacity {α : Type} := failsProperly_error (α := α) isFailure_eCapacity
  table.ite (table.ite (table.ite ((descend_failsProperly _ _ _ _).bind fun _ =>
    capacity.ite (capacity.ite (failsProperly_ok _)))))

theorem decSetPadBody_failsProperly (a : Word) (d : Decoder) :
    FailsProperly (decSetPadBody a d) := (padOperand_failsProperly a).map _

theorem decPushByteBody_failsProperly (c : Config) (a : Word) (d : Decoder) :
    FailsProperly (decPushByteBody c a d) :=
  (byteOperand_failsProperly a).bind fun _ => (appendCapped_failsProperly _ _ _).map _

theorem decRunBody_failsProperly (c : Config) (d : Decoder) : FailsProperly (decRunBody c d) :=
  (failsProperly_error isFailure_eCorrupt).ite ((walk_failsProperly _ _ _ _ _ _).map _)

/-! ### The commands' frames -/

/-- An encoder command leaves the parameters, the decoder and DEC_ERR (60_exceptions R372). -/
theorem encCommand_frame (st : Stage) (states : List EncState)
    (body : Encoder → Except ResultCode (Word × Encoder)) (s : State) :
    (encCommand st states body s).cfg = s.cfg ∧ (encCommand st states body s).dec = s.dec ∧
    (encCommand st states body s).decErr = s.decErr := by
  obtain ⟨-, v, e, -, he⟩ | ⟨-, rc, -, he⟩ | ⟨-, he⟩ := encCommand_cases st states body s <;>
    simp [he]

/-- A decoder command leaves the parameters, the encoder and ENC_ERR (60_exceptions R372). -/
theorem decCommand_frame (st : Stage) (states : List DecState)
    (body : Decoder → Except ResultCode (Word × Decoder)) (s : State) :
    (decCommand st states body s).cfg = s.cfg ∧ (decCommand st states body s).enc = s.enc ∧
    (decCommand st states body s).encErr = s.encErr := by
  obtain ⟨-, v, d, -, he⟩ | ⟨-, rc, -, he⟩ | ⟨-, he⟩ := decCommand_cases st states body s <;>
    simp [he]

/-- ENC_START begins a run in the mode its operand names, or fails (41_frequency_analyzer R150). -/
theorem exec_encStart_cases {s t : State} (h : exec .encStart s = .next t) :
    (∃ m, modeOperand s.arg0 = .ok m ∧
      t = complete .analysis 0 ((s.setEnc (freshEncoder m)).setEncErr 0)) ∨
    ∃ rc, modeOperand s.arg0 = .error rc ∧ t = raise .encoder rc .analysis s := by
  change execEncStart s = .next t at h
  unfold execEncStart at h
  cases hm : modeOperand s.arg0 with
  | ok m => rw [hm] at h; cases h; exact .inl ⟨m, rfl, rfl⟩
  | error rc => rw [hm] at h; cases h; exact .inr ⟨rc, rfl, rfl⟩

/-- DEC_RUN fails on an incomplete table, or is a decoder command (47_bitstream_walker R310). -/
theorem exec_decRun_cases {s t : State} (h : exec .decRun s = .next t) :
    t = raise .decoder .eTable .artifactLoad s ∨
    t = decCommand .decode [.load] (decRunBody s.cfg) s := by
  change execDecRun s = .next t at h
  unfold execDecRun at h
  injection h with h
  subst h
  split
  exacts [.inl rfl, .inr rfl]

/-! ### The encoder unit -/

/-- Everything one step can do to the encoder `e` and its ERR register `w` (10_state R37, R41):
nothing, reset, SRESET, a failure, ENC_START, or the effect of a command that succeeds. -/
inductive EncMove (c : Config) (e : Encoder) (w : Word) : Encoder → Word → Prop
  | keep : EncMove c e w e w
  | reset : EncMove c e w Encoder.empty 0
  | idle : EncMove c e w { e with state := .idle } 0
  | fail (st : Stage) (rc : ResultCode) (hrc : rc.IsFailure) :
    EncMove c e w { e with state := .error } (if e.state = .error then w else errWord st rc)
  | start (m : Mode) : EncMove c e w (freshEncoder m) 0
  | push (a v : Word) (e' : Encoder) (hs : e.state = .loading)
    (hb : encPushBody c a e = .ok (v, e')) : EncMove c e w e' w
  | finish (v : Word) (e' : Encoder) (hs : e.state = .loading)
    (hb : encEndBody c e = .ok (v, e')) : EncMove c e w e' w
  | build (v : Word) (e' : Encoder) (hs : e.state = .analyzed)
    (hb : encBuildBody e = .ok (v, e')) : EncMove c e w e' w
  | assign (v : Word) (e' : Encoder) (hs : e.state = .built)
    (hb : encAssignBody c e = .ok (v, e')) : EncMove c e w e' w
  | pack (v : Word) (e' : Encoder) (hs : e.state = .assigned)
    (hb : encPackBody c e = .ok (v, e')) : EncMove c e w e' w

/-- The encoder's move between two states. -/
abbrev encMove (s t : State) : Prop := EncMove s.cfg s.enc s.encErr t.enc t.encErr

theorem raise_encMove {rc : ResultCode} (st : Stage) (s : State) (h : rc.IsFailure) :
    encMove s (raise .encoder rc st s) := by
  simpa [encMove] using EncMove.fail st rc h

/-- An encoder command moves the encoder by its body's success, or by a failure. -/
theorem encCommand_encMove {st : Stage} {states : List EncState}
    {body : Encoder → Except ResultCode (Word × Encoder)} {s : State}
    (hf : FailsProperly (body s.enc))
    (hok : s.enc.state ∈ states → ∀ v e, body s.enc = .ok (v, e) →
      EncMove s.cfg s.enc s.encErr e s.encErr) :
    encMove s (encCommand st states body s) := by
  obtain ⟨hs, v, e, hb, he⟩ | ⟨-, rc, hb, he⟩ | ⟨-, he⟩ := encCommand_cases st states body s <;>
    rw [he]
  · simpa [encMove] using hok hs v e hb
  · exact raise_encMove st s (hf rc hb)
  · exact raise_encMove st s isFailure_eState

theorem encReadout_encMove {states : List EncState} {read : Encoder → Except ResultCode Word}
    {s : State} (hf : FailsProperly (read s.enc)) : encMove s (encReadout states read s) := by
  obtain ⟨-, v, -, he⟩ | ⟨-, rc, hr, he⟩ | ⟨-, he⟩ := encReadout_cases states read s <;> rw [he]
  · exact .keep
  · exact raise_encMove _ s (hf rc hr)
  · exact raise_encMove _ s isFailure_eState

theorem decCommand_encMove (st : Stage) (states : List DecState)
    (body : Decoder → Except ResultCode (Word × Decoder)) (s : State) :
    encMove s (decCommand st states body s) := by
  obtain ⟨-, he, hw⟩ := decCommand_frame st states body s
  rw [encMove, he, hw]
  exact .keep

theorem exec_encMove {i : Instr} {s t : State} (h : exec i s = .next t) : encMove s t := by
  cases i with
  | nop => cases h; exact .keep
  | sreset => cases h; exact .idle
  | encStart =>
    obtain ⟨m, -, rfl⟩ | ⟨rc, hm, rfl⟩ := exec_encStart_cases h
    · exact .start m
    · exact raise_encMove _ s (modeOperand_failsProperly _ rc hm)
  | encPush =>
    cases h
    exact encCommand_encMove (encPushBody_failsProperly _ _ _) fun hs v e hb =>
      .push _ v e (List.mem_singleton.mp hs) hb
  | encEnd =>
    cases h
    exact encCommand_encMove (encEndBody_failsProperly _ _) fun hs v e hb =>
      .finish v e (List.mem_singleton.mp hs) hb
  | encBuild =>
    cases h
    exact encCommand_encMove (failsProperly_ok _) fun hs v e hb =>
      .build v e (List.mem_singleton.mp hs) hb
  | encAssign =>
    cases h
    exact encCommand_encMove (encAssignBody_failsProperly _ _) fun hs v e hb =>
      .assign v e (List.mem_singleton.mp hs) hb
  | encPack =>
    cases h
    exact encCommand_encMove (encPackBody_failsProperly _ _) fun hs v e hb =>
      .pack v e (List.mem_singleton.mp hs) hb
  | encRdNsym | encRdNstream | encRdNbytes | encRdPad =>
    cases h; exact encReadout_encMove (failsProperly_ok _)
  | encRdSymlen | encRdFreq | encRdCodelen | encRdByte =>
    cases h; exact encReadout_encMove ((indexOperand_failsProperly _ _).map _)
  | encRdSymcp =>
    cases h
    exact encReadout_encMove ((indexOperand_failsProperly _ _).bind fun _ =>
      indexOperand_failsProperly _ _)
  | encRdCodebit =>
    cases h
    exact encReadout_encMove ((indexOperand_failsProperly _ _).bind fun _ =>
      (indexOperand_failsProperly _ _).map _)
  | decStart => cases h; exact .keep
  | decRun =>
    obtain rfl | rfl := exec_decRun_cases h
    · simpa [encMove] using EncMove.keep
    · exact decCommand_encMove _ _ _ s
  | decAddCp | decAddBit | decCommit | decSetPad | decPushByte | decRdNsym | decRdOutlen
    | decRdOutcp | decRdNent => cases h; exact decCommand_encMove _ _ _ s

theorem engineStep_encMove {s t : State} (h : engineStep s = .next t) : encMove s t := by
  obtain ⟨i, u, hx, rfl⟩ | rfl | rfl := engineStep_next_cases h
  · exact (exec_encMove hx :)
  · exact .keep
  · exact .keep

/-- Everything a step can do to the encoder unit. -/
theorem step_encMove {s t : State} (h : step s = .next t) : encMove s t := by
  obtain ⟨m, he | ⟨op, hh⟩ | rfl⟩ := step_next_cases h
  · exact (engineStep_encMove he :)
  · obtain ⟨-, he, -, hw, -⟩ := hostStep_frame hh
    rw [encMove, he, hw]
    exact .keep
  · exact .reset

/-! ### The decoder unit -/

/-- Everything one step can do to the decoder `d` and its ERR register `w` (10_state R37, R56). -/
inductive DecMove (c : Config) (d : Decoder) (w : Word) : Decoder → Word → Prop
  | keep : DecMove c d w d w
  | reset : DecMove c d w Decoder.empty 0
  | idle : DecMove c d w { d with state := .idle } 0
  | fail (st : Stage) (rc : ResultCode) (hrc : rc.IsFailure) :
    DecMove c d w { d with state := .error } (if d.state = .error then w else errWord st rc)
  | start : DecMove c d w freshDecoder 0
  | addCp (a v : Word) (d' : Decoder) (hs : d.state = .load)
    (hb : decAddCpBody c a d = .ok (v, d')) : DecMove c d w d' w
  | addBit (a v : Word) (d' : Decoder) (hs : d.state = .load)
    (hb : decAddBitBody c a d = .ok (v, d')) : DecMove c d w d' w
  | commit (v : Word) (d' : Decoder) (hs : d.state = .load)
    (hb : decCommitBody c d = .ok (v, d')) : DecMove c d w d' w
  | setPad (a v : Word) (d' : Decoder) (hs : d.state = .load)
    (hb : decSetPadBody a d = .ok (v, d')) : DecMove c d w d' w
  | pushByte (a v : Word) (d' : Decoder) (hs : d.state = .load)
    (hb : decPushByteBody c a d = .ok (v, d')) : DecMove c d w d' w
  | run (v : Word) (d' : Decoder) (hs : d.state = .load)
    (hb : decRunBody c d = .ok (v, d')) : DecMove c d w d' w

/-- The decoder's move between two states. -/
abbrev decMove (s t : State) : Prop := DecMove s.cfg s.dec s.decErr t.dec t.decErr

theorem raise_decMove {rc : ResultCode} (st : Stage) (s : State) (h : rc.IsFailure) :
    decMove s (raise .decoder rc st s) := by
  simpa [decMove] using DecMove.fail st rc h

/-- A decoder command moves the decoder by its body's success, or by a failure. -/
theorem decCommand_decMove {st : Stage} {states : List DecState}
    {body : Decoder → Except ResultCode (Word × Decoder)} {s : State}
    (hf : FailsProperly (body s.dec))
    (hok : s.dec.state ∈ states → ∀ v d, body s.dec = .ok (v, d) →
      DecMove s.cfg s.dec s.decErr d s.decErr) :
    decMove s (decCommand st states body s) := by
  obtain ⟨hs, v, d, hb, he⟩ | ⟨-, rc, hb, he⟩ | ⟨-, he⟩ := decCommand_cases st states body s <;>
    rw [he]
  · simpa [decMove] using hok hs v d hb
  · exact raise_decMove st s (hf rc hb)
  · exact raise_decMove st s isFailure_eState

theorem decReadout_decMove {states : List DecState} {read : Decoder → Except ResultCode Word}
    {s : State} (hf : FailsProperly (read s.dec)) : decMove s (decReadout states read s) := by
  obtain ⟨-, v, -, he⟩ | ⟨-, rc, hr, he⟩ | ⟨-, he⟩ := decReadout_cases states read s <;> rw [he]
  · exact .keep
  · exact raise_decMove _ s (hf rc hr)
  · exact raise_decMove _ s isFailure_eState

theorem encCommand_decMove (st : Stage) (states : List EncState)
    (body : Encoder → Except ResultCode (Word × Encoder)) (s : State) :
    decMove s (encCommand st states body s) := by
  obtain ⟨-, hd, hw⟩ := encCommand_frame st states body s
  rw [decMove, hd, hw]
  exact .keep

theorem exec_decMove {i : Instr} {s t : State} (h : exec i s = .next t) : decMove s t := by
  cases i with
  | nop => cases h; exact .keep
  | sreset => cases h; exact .idle
  | encStart =>
    obtain ⟨m, -, rfl⟩ | ⟨rc, -, rfl⟩ := exec_encStart_cases h
    · exact .keep
    · simpa [decMove] using DecMove.keep
  | encPush | encEnd | encBuild | encAssign | encPack | encRdNsym | encRdSymlen | encRdSymcp
    | encRdFreq | encRdCodelen | encRdCodebit | encRdNstream | encRdNbytes | encRdByte
    | encRdPad => cases h; exact encCommand_decMove _ _ _ s
  | decStart => cases h; exact .start
  | decAddCp =>
    cases h
    exact decCommand_decMove (decAddCpBody_failsProperly _ _ _) fun hs v d hb =>
      .addCp _ v d (List.mem_singleton.mp hs) hb
  | decAddBit =>
    cases h
    exact decCommand_decMove (decAddBitBody_failsProperly _ _ _) fun hs v d hb =>
      .addBit _ v d (List.mem_singleton.mp hs) hb
  | decCommit =>
    cases h
    exact decCommand_decMove (decCommitBody_failsProperly _ _) fun hs v d hb =>
      .commit v d (List.mem_singleton.mp hs) hb
  | decSetPad =>
    cases h
    exact decCommand_decMove (decSetPadBody_failsProperly _ _) fun hs v d hb =>
      .setPad _ v d (List.mem_singleton.mp hs) hb
  | decPushByte =>
    cases h
    exact decCommand_decMove (decPushByteBody_failsProperly _ _ _) fun hs v d hb =>
      .pushByte _ v d (List.mem_singleton.mp hs) hb
  | decRun =>
    obtain rfl | rfl := exec_decRun_cases h
    · exact raise_decMove _ s isFailure_eTable
    · exact decCommand_decMove (decRunBody_failsProperly _ _) fun hs v d hb =>
        .run v d (List.mem_singleton.mp hs) hb
  | decRdNsym | decRdOutlen | decRdNent => cases h; exact decReadout_decMove (failsProperly_ok _)
  | decRdOutcp => cases h; exact decReadout_decMove (indexOperand_failsProperly _ _)

theorem engineStep_decMove {s t : State} (h : engineStep s = .next t) : decMove s t := by
  obtain ⟨i, u, hx, rfl⟩ | rfl | rfl := engineStep_next_cases h
  · exact (exec_decMove hx :)
  · exact .keep
  · exact .keep

/-- Everything a step can do to the decoder unit. -/
theorem step_decMove {s t : State} (h : step s = .next t) : decMove s t := by
  obtain ⟨m, he | ⟨op, hh⟩ | rfl⟩ := step_next_cases h
  · exact (engineStep_decMove he :)
  · obtain ⟨-, -, hd, -, hw⟩ := hostStep_frame hh
    rw [decMove, hd, hw]
    exact .keep
  · exact .reset

/-! ### The parameters -/

/-- No command changes a parameter. -/
theorem exec_cfg {i : Instr} {s t : State} (h : exec i s = .next t) : t.cfg = s.cfg := by
  cases i with
  | nop | sreset | decStart => cases h; rfl
  | encStart =>
    obtain ⟨m, -, rfl⟩ | ⟨rc, -, rfl⟩ := exec_encStart_cases h
    · rfl
    · exact raise_cfg _ _ _ s
  | encPush | encEnd | encBuild | encAssign | encPack | encRdNsym | encRdSymlen | encRdSymcp
    | encRdFreq | encRdCodelen | encRdCodebit | encRdNstream | encRdNbytes | encRdByte
    | encRdPad => cases h; exact (encCommand_frame _ _ _ s).1
  | decRun =>
    obtain rfl | rfl := exec_decRun_cases h
    · exact raise_cfg _ _ _ s
    · exact (decCommand_frame _ _ _ s).1
  | decAddCp | decAddBit | decCommit | decSetPad | decPushByte | decRdNsym | decRdOutlen
    | decRdOutcp | decRdNent => cases h; exact (decCommand_frame _ _ _ s).1

theorem engineStep_cfg {s t : State} (h : engineStep s = .next t) : t.cfg = s.cfg := by
  obtain ⟨i, u, hx, rfl⟩ | rfl | rfl := engineStep_next_cases h
  · exact (exec_cfg hx :)
  · rfl
  · rfl

/-- No step changes a parameter (00_scope R8). -/
theorem step_cfg {s t : State} (h : step s = .next t) : t.cfg = s.cfg := by
  obtain ⟨m, he | ⟨op, hh⟩ | rfl⟩ := step_next_cases h
  · exact (engineStep_cfg he :)
  · exact (hostStep_frame hh).1
  · rfl

end Sys2Proof.Machine
end

section
/-! PROOFS, part 2. The analyser (41_frequency_analyzer): what its operations do, and that they keep
the frequency table and the stream in agreement (10_state R43 to R45). -/

namespace Sys2Proof.Machine

/-! ### What the analyser's operations do -/

/-- EMIT writes the table, the counts and the stream alone (41_frequency_analyzer R151). -/
theorem emit_frame {c : Config} {y : Symbol} {e e' : Encoder} (h : emit c y e = .ok e') :
    e'.state = e.state ∧ e'.mode = e.mode ∧ e'.word = e.word ∧ e'.node = e.node ∧
    e'.code = e.code ∧ e'.bytes = e.bytes := by
  obtain ⟨-, ⟨i, -, rfl⟩ | ⟨-, -, rfl⟩⟩ := emit_ok h <;> exact ⟨rfl, rfl, rfl, rfl, rfl, rfl⟩

/-- The pending run is emitted and cleared, when there is one (41_frequency_analyzer R153). -/
theorem emitWord_ok {c : Config} {e e' : Encoder} (h : emitWord c e = .ok e') :
    (e.word = [] ∧ e' = e) ∨
    (e.word ≠ [] ∧ ∃ e₁, emit c e.word e = .ok e₁ ∧ e' = { e₁ with word := [] }) := by
  rw [emitWord_eq] at h
  split at h
  · next hw => cases h; exact .inl ⟨hw, rfl⟩
  · next hw =>
    obtain ⟨e₁, he, rfl⟩ := except_map_ok.mp h
    exact .inr ⟨hw, e₁, he, rfl⟩

/-- The three things a code point can do (41_frequency_analyzer R154): be a symbol of its own in
CHAR mode, lengthen the pending run, or end it and be a symbol of its own in WORD mode. -/
theorem pushCodePoint_ok {c : Config} {cp : CP} {e e' : Encoder}
    (h : pushCodePoint c cp e = .ok e') :
    (e.mode = .char ∧ emit c [cp] e = .ok e') ∨
    (e.mode = .word ∧ e.word.length ≠ c.wMax ∧ e' = { e with word := e.word ++ [cp] }) ∨
    (e.mode = .word ∧ ∃ e₁, emitWord c e = .ok e₁ ∧ emit c [cp] e₁ = .ok e') := by
  rw [pushCodePoint_eq] at h
  cases hm : e.mode with
  | char => rw [hm] at h; exact .inl ⟨rfl, h⟩
  | word =>
    rw [hm] at h
    dsimp only at h
    split at h
    · obtain ⟨w, hw, rfl⟩ := except_map_ok.mp h
      obtain ⟨hl, rfl⟩ := appendCapped_ok hw
      exact .inr (.inl ⟨rfl, hl, rfl⟩)
    · exact .inr (.inr ⟨rfl, except_bind_ok.mp h⟩)

theorem encPushBody_ok {c : Config} {a v : Word} {e e' : Encoder}
    (h : encPushBody c a e = .ok (v, e')) : ∃ cp, pushCodePoint c cp e = .ok e' := by
  rw [encPushBody_eq] at h
  obtain ⟨cp, -, h⟩ := except_bind_ok.mp h
  obtain ⟨e₁, he, h⟩ := except_map_ok.mp h
  cases h
  exact ⟨cp, he⟩

theorem encEndBody_ok {c : Config} {v : Word} {e e' : Encoder} (h : encEndBody c e = .ok (v, e')) :
    ∃ e₁, emitWord c e = .ok e₁ ∧ e' = { e₁ with state := .analyzed } := by
  rw [encEndBody_eq] at h
  obtain ⟨e₁, he, h⟩ := except_map_ok.mp h
  cases h
  exact ⟨e₁, he, rfl⟩

theorem encBuildBody_ok {v : Word} {e e' : Encoder} (h : encBuildBody e = .ok (v, e')) :
    e' = { e with node := (buildTree e.sym.length e.freq).1,
                  root := (buildTree e.sym.length e.freq).2, state := .built } := by
  cases h
  rfl

theorem encAssignBody_ok {c : Config} {v : Word} {e e' : Encoder}
    (h : encAssignBody c e = .ok (v, e')) :
    longestCode (codeTable e.sym.length e.node e.root) ≤ c.maxCodeLen ∧
    e' = { e with code := codeTable e.sym.length e.node e.root, state := .assigned } := by
  simp only [encAssignBody] at h
  split at h
  · cases h
  · next hc => cases h; exact ⟨by omega, rfl⟩

/-- The bits of the packed stream: the codes of the symbol stream and the padding
(44_bit_packer R220). -/
def paddedBits (e : Encoder) : List Bit :=
  streamBits e.code e.stream ++
    List.replicate (padCount (streamBits e.code e.stream).length).val false

theorem encPackBody_ok {c : Config} {v : Word} {e e' : Encoder}
    (h : encPackBody c e = .ok (v, e')) :
    (paddedBits e).length / 8 ≤ c.byteCap ∧
    e' = { e with bytes := packBits (paddedBits e),
                  pad := padCount (streamBits e.code e.stream).length, state := .packed } := by
  simp only [encPackBody] at h
  split at h
  · cases h
  · next hb =>
    cases h
    refine ⟨?_, rfl⟩
    rw [paddedBits, List.length_append, List.length_replicate]
    omega

theorem emitWord_frame {c : Config} {e e' : Encoder} (h : emitWord c e = .ok e') :
    e'.state = e.state ∧ e'.mode = e.mode ∧ e'.word = [] ∧ e'.node = e.node ∧ e'.code = e.code ∧
    e'.bytes = e.bytes := by
  obtain ⟨hw, rfl⟩ | ⟨-, e₁, he, rfl⟩ := emitWord_ok h
  · exact ⟨rfl, rfl, hw, rfl, rfl, rfl⟩
  · obtain ⟨hs, hm, -, hn, hk, hb⟩ := emit_frame he
    exact ⟨hs, hm, rfl, hn, hk, hb⟩

/-- A code point changes neither the state, the mode nor what the later stages write. -/
theorem pushCodePoint_frame {c : Config} {cp : CP} {e e' : Encoder}
    (h : pushCodePoint c cp e = .ok e') :
    e'.state = e.state ∧ e'.mode = e.mode ∧ e'.node = e.node ∧ e'.code = e.code ∧
    e'.bytes = e.bytes := by
  obtain ⟨-, he⟩ | ⟨-, -, rfl⟩ | ⟨-, e₁, hw, he⟩ := pushCodePoint_ok h
  · obtain ⟨hs, hm, -, hn, hk, hb⟩ := emit_frame he
    exact ⟨hs, hm, hn, hk, hb⟩
  · exact ⟨rfl, rfl, rfl, rfl, rfl⟩
  · obtain ⟨hs, hm, -, hn, hk, hb⟩ := emit_frame he
    obtain ⟨hs₁, hm₁, -, hn₁, hk₁, hb₁⟩ := emitWord_frame hw
    exact ⟨hs.trans hs₁, hm.trans hm₁, hn.trans hn₁, hk.trans hk₁, hb.trans hb₁⟩

/-! ### The frequency table and the stream (10_state R43 to R45) -/

/-- The part of `Encoder.analysisOk` that says nothing of the pending run. -/
structure Encoder.TableOk (e : Encoder) : Prop where
  aligned : e.freq.length = e.sym.length
  nodup : e.sym.Nodup
  nonempty : ∀ y ∈ e.sym, y ≠ []
  bounded : ∀ p ∈ e.stream, p < e.sym.length
  counted : ∀ i < e.sym.length, e.freq.getD i 0 = e.stream.count i ∧ 1 ≤ e.stream.count i

theorem Encoder.analysisOk_iff {e : Encoder} :
    e.analysisOk ↔
      (e.inRun → e.TableOk ∧ (e.mode = .char → e.word = []) ∧ (e.state ≠ .loading → e.word = [])) :=
  forall_congr' fun _ =>
    ⟨fun ⟨h₁, h₂, h₃, h₄, h₅, hw⟩ => ⟨⟨h₁, h₂, h₃, h₄, h₅⟩, hw⟩,
      fun ⟨h, hw⟩ => ⟨h.aligned, h.nodup, h.nonempty, h.bounded, h.counted, hw⟩⟩

/-- One count of a frequency table goes up by one. -/
theorem getD_modify_succ (l : List Nat) {i k : Nat} (hk : k < l.length) :
    (l.modify i (· + 1)).getD k 0 = l.getD k 0 + if i = k then 1 else 0 := by
  simp only [List.getD_eq_getElem?_getD, List.getElem?_modify, List.getElem?_eq_getElem hk]
  split <;> simp

theorem count_append_singleton (l : List Nat) (i k : Nat) :
    (l ++ [i]).count k = l.count k + if i = k then 1 else 0 := by
  simp [List.count_append, List.count_singleton]

/-- Counting one more occurrence of a symbol of the table keeps the agreement. -/
theorem Encoder.TableOk.countOccurrence {e : Encoder} (h : e.TableOk) {i : Nat}
    (hi : i < e.sym.length) : (countOccurrence i e).TableOk where
  aligned := (List.length_modify _ _ _).trans h.aligned
  nodup := h.nodup
  nonempty := h.nonempty
  bounded p hp := by
    obtain hp | hp := List.mem_append.mp hp
    · exact h.bounded p hp
    · rw [List.mem_singleton.mp hp]; exact hi
  counted k hk := by
    obtain ⟨hc, hpos⟩ := h.counted k hk
    simp only [Machine.countOccurrence, count_append_singleton]
    rw [getD_modify_succ _ (by rw [h.aligned]; exact hk), hc]
    exact ⟨rfl, by omega⟩

/-- A new symbol takes the next index and the count 1. -/
theorem Encoder.TableOk.newSymbol {e : Encoder} (h : e.TableOk) {y : Symbol} (hy : y ≠ [])
    (hn : y ∉ e.sym) :
    (Machine.countOccurrence e.sym.length
      { e with sym := e.sym ++ [y], freq := e.freq ++ [0] }).TableOk where
  aligned := by simp [Machine.countOccurrence, h.aligned]
  nodup := List.nodup_append.mpr ⟨h.nodup, List.nodup_singleton y, fun z hz w hw => by
    rw [List.mem_singleton.mp hw]
    exact fun he => hn (he ▸ hz)⟩
  nonempty z hz := by
    obtain hz | hz := List.mem_append.mp hz
    · exact h.nonempty z hz
    · rw [List.mem_singleton.mp hz]; exact hy
  bounded p hp := by
    simp only [Machine.countOccurrence, List.mem_append, List.mem_singleton, List.length_append,
      List.length_singleton] at hp ⊢
    obtain hp | rfl := hp
    · have := h.bounded p hp; omega
    · omega
  counted k hk := by
    simp only [Machine.countOccurrence, List.length_append, List.length_singleton] at hk
    simp only [Machine.countOccurrence, count_append_singleton]
    rw [getD_modify_succ _ (by rw [List.length_append, h.aligned]; exact hk)]
    obtain hlt | rfl : k < e.sym.length ∨ k = e.sym.length := by omega
    · obtain ⟨hc, hpos⟩ := h.counted k hlt
      rw [List.getD_append _ _ _ _ (by rw [h.aligned]; exact hlt), hc]
      exact ⟨rfl, by omega⟩
    · have hz : e.stream.count e.sym.length = 0 :=
        List.count_eq_zero.mpr fun hm => absurd (h.bounded _ hm) (Nat.lt_irrefl _)
      rw [List.getD_append_right _ _ _ _ (by rw [h.aligned]), hz, h.aligned]
      simp

/-- EMIT of a non-empty symbol keeps the table and the stream in agreement. -/
theorem emit_tableOk {c : Config} {y : Symbol} {e e' : Encoder} (hy : y ≠ [])
    (h : emit c y e = .ok e') (ht : e.TableOk) : e'.TableOk := by
  obtain ⟨-, ⟨i, hi, rfl⟩ | ⟨hi, -, rfl⟩⟩ := emit_ok h
  · exact ht.countOccurrence (List.findIdx?_eq_some_iff_getElem.mp hi).1
  · exact ht.newSymbol hy (List.idxOf?_eq_none_iff.mp hi)

/-- The agreement is about the table, the counts and the stream alone. -/
theorem Encoder.TableOk.of_eq {e e' : Encoder} (h : e.TableOk) (hy : e'.sym = e.sym)
    (hf : e'.freq = e.freq) (hs : e'.stream = e.stream) : e'.TableOk := by
  obtain ⟨h₁, h₂, h₃, h₄, h₅⟩ := h
  constructor <;> simpa only [hy, hf, hs]

theorem emitWord_tableOk {c : Config} {e e' : Encoder} (h : emitWord c e = .ok e')
    (ht : e.TableOk) : e'.TableOk := by
  obtain ⟨-, rfl⟩ | ⟨hw, e₁, he, rfl⟩ := emitWord_ok h
  · exact ht
  · exact (emit_tableOk hw he ht).of_eq rfl rfl rfl

theorem pushCodePoint_tableOk {c : Config} {cp : CP} {e e' : Encoder}
    (h : pushCodePoint c cp e = .ok e') (ht : e.TableOk) : e'.TableOk := by
  obtain ⟨-, he⟩ | ⟨-, -, rfl⟩ | ⟨-, e₁, hw, he⟩ := pushCodePoint_ok h
  · exact emit_tableOk (List.cons_ne_nil _ _) he ht
  · exact ht.of_eq rfl rfl rfl
  · exact emit_tableOk (List.cons_ne_nil _ _) he (emitWord_tableOk hw ht)

/-- In CHAR mode a code point leaves the pending run empty. -/
theorem pushCodePoint_word_of_char {c : Config} {cp : CP} {e e' : Encoder}
    (h : pushCodePoint c cp e = .ok e') (hm : e.mode = .char) : e'.word = e.word := by
  obtain ⟨-, he⟩ | ⟨hw, -⟩ | ⟨hw, -⟩ := pushCodePoint_ok h
  · obtain ⟨-, -, hword, -⟩ := emit_frame he
    exact hword
  all_goals rw [hm] at hw; cases hw

/-- After the text has ended, a stage that keeps the analyser's fields keeps their agreement. -/
theorem Encoder.analysisOk.of_later {e e' : Encoder} (h : e.analysisOk) (hr : e.inRun)
    (hl : e.state ≠ .loading) (hy : e'.sym = e.sym)
    (hf : e'.freq = e.freq) (hs : e'.stream = e.stream) (hw : e'.word = e.word) :
    e'.analysisOk := by
  obtain ⟨ht, -, hword⟩ := Encoder.analysisOk_iff.mp h hr
  rw [← hw] at hword
  exact Encoder.analysisOk_iff.mpr fun _ =>
    ⟨ht.of_eq hy hf hs, fun _ => hword hl, fun _ => hword hl⟩

theorem EncMove.analysisOk {c : Config} {e e' : Encoder} {w w' : Word} (h : EncMove c e w e' w')
    (ha : e.analysisOk) : e'.analysisOk := by
  cases h with
  | keep => exact ha
  | reset | idle | fail => exact fun hr => by simp [Encoder.inRun, Encoder.empty] at hr
  | start m =>
    exact Encoder.analysisOk_iff.mpr fun _ =>
      ⟨⟨rfl, List.nodup_nil, by simp [freshEncoder, Encoder.empty],
        by simp [freshEncoder, Encoder.empty], by simp [freshEncoder, Encoder.empty]⟩,
        fun _ => rfl, fun _ => rfl⟩
  | push a v _ hs hb =>
    obtain ⟨cp, hp⟩ := encPushBody_ok hb
    obtain ⟨hs', hm', -⟩ := pushCodePoint_frame hp
    obtain ⟨ht, hchar, -⟩ := Encoder.analysisOk_iff.mp ha (.inl hs)
    refine Encoder.analysisOk_iff.mpr fun _ => ⟨pushCodePoint_tableOk hp ht, fun hm => ?_, ?_⟩
    · rw [hm'] at hm
      rw [pushCodePoint_word_of_char hp hm, hchar hm]
    · exact fun hl => absurd (hs'.trans hs) hl
  | finish v _ hs hb =>
    obtain ⟨e₁, hw, rfl⟩ := encEndBody_ok hb
    obtain ⟨-, -, hword, -⟩ := emitWord_frame hw
    obtain ⟨ht, -⟩ := Encoder.analysisOk_iff.mp ha (.inl hs)
    exact Encoder.analysisOk_iff.mpr fun _ =>
      ⟨(emitWord_tableOk hw ht).of_eq rfl rfl rfl, fun _ => hword, fun _ => hword⟩
  | build v _ hs hb =>
    cases encBuildBody_ok hb
    exact ha.of_later (by simp [Encoder.inRun, hs]) (by simp [hs]) rfl rfl rfl rfl
  | assign v _ hs hb =>
    obtain ⟨-, rfl⟩ := encAssignBody_ok hb
    exact ha.of_later (by simp [Encoder.inRun, hs]) (by simp [hs]) rfl rfl rfl rfl
  | pack v _ hs hb =>
    obtain ⟨-, rfl⟩ := encPackBody_ok hb
    exact ha.of_later (by simp [Encoder.inRun, hs]) (by simp [hs]) rfl rfl rfl rfl

/-! ### The statements -/

/-- Settles O58: each move of the encoder keeps the table and the stream in agreement. -/
theorem everyStepKeepsTheAnalysisConsistent : Obligations.EveryStepKeepsTheAnalysisConsistent :=
  fun _ _ ha h => (step_encMove h).analysisOk ha

end Sys2Proof.Machine
end

section
/-! PROOFS, part 3. The decode tree (10_state R57, R59): DEC_COMMIT grows it by one path
(46_table_loader R273), and every step keeps it a tree. -/

namespace Sys2Proof.Machine

/-! ### Reading a tree with one more node -/

/-- A node with no child, for the leaf index `l`, added as the child of node `k` for bit `b`: one
round of DEC_COMMIT's loop. -/
def growNode (nodes : List DecNode) (k : Nat) (b : Bit) (l : Option Nat) : List DecNode :=
  (nodes ++ [(⟨none, none, l⟩ : DecNode)]).modify k (DecNode.setChild b nodes.length)

theorem insertPath_cons (j : Nat) (nodes : List DecNode) (k : Nat) (b : Bit) (rest : Code) :
    insertPath j nodes k (b :: rest) =
      insertPath j (growNode nodes k b (if rest = [] then some j else none)) nodes.length rest := rfl

@[simp] theorem growNode_length (nodes : List DecNode) (k : Nat) (b : Bit) (l : Option Nat) :
    (growNode nodes k b l).length = nodes.length + 1 := by
  simp [growNode]

@[simp] theorem DecNode.setChild_leaf (b : Bit) (m : Nat) (n : DecNode) :
    (n.setChild b m).leaf = n.leaf := by
  cases b <;> rfl

theorem leafOf_eq (nodes : List DecNode) (k : Nat) : leafOf nodes k = nodes[k]?.bind (·.leaf) := by
  unfold leafOf
  cases nodes[k]? <;> rfl

/-- The child of a node for a bit. -/
def DecNode.child (b : Bit) (n : DecNode) : Option Nat := if b then n.c1 else n.c0

theorem childOf_eq (nodes : List DecNode) (k : Nat) (b : Bit) :
    childOf nodes k b = nodes[k]?.bind (DecNode.child b) := by
  unfold childOf
  cases nodes[k]? <;> rfl

theorem DecNode.child_setChild (b b' : Bit) (m : Nat) (n : DecNode) :
    (n.setChild b m).child b' = if b' = b then some m else n.child b' := by
  cases b <;> cases b' <;> rfl

theorem childOf_eq_none_of_le {nodes : List DecNode} {k : Nat} (h : nodes.length ≤ k) (b : Bit) :
    childOf nodes k b = none := by
  rw [childOf_eq, List.getElem?_eq_none h]; rfl

theorem leafOf_eq_none_of_le {nodes : List DecNode} {k : Nat} (h : nodes.length ≤ k) :
    leafOf nodes k = none := by
  rw [leafOf_eq, List.getElem?_eq_none h]; rfl

/-- The new node has the leaf index it is given; no other node's changes. -/
theorem leafOf_growNode (nodes : List DecNode) (k : Nat) (b : Bit) (l : Option Nat) (i : Nat) :
    leafOf (growNode nodes k b l) i = if i = nodes.length then l else leafOf nodes i := by
  have hmod (n : Option DecNode) :
      ((fun a => if k = i then DecNode.setChild b nodes.length a else a) <$> n).bind (·.leaf) =
        n.bind (·.leaf) := by
    cases n with
    | none => rfl
    | some n => by_cases h : k = i <;> simp [h]
  rw [leafOf_eq, growNode, List.getElem?_modify, hmod]
  split
  · next h => subst h; simp
  · next h =>
    rw [leafOf_eq]
    obtain hlt | hge : i < nodes.length ∨ nodes.length < i := by omega
    · rw [List.getElem?_append_left hlt]
    · rw [List.getElem?_eq_none (by simp; omega), List.getElem?_eq_none (by omega)]

/-- Node `k` has the new node for bit `b`; no other child changes. -/
theorem childOf_growNode {nodes : List DecNode} {k : Nat} (hk : k < nodes.length) (b : Bit)
    (l : Option Nat) (i : Nat) (b' : Bit) :
    childOf (growNode nodes k b l) i b' =
      if i = k ∧ b' = b then some nodes.length else childOf nodes i b' := by
  rw [childOf_eq, growNode, List.getElem?_modify]
  obtain hlt | rfl | hgt := Nat.lt_trichotomy i nodes.length
  · rw [List.getElem?_append_left hlt, List.getElem?_eq_getElem hlt, childOf_eq,
      List.getElem?_eq_getElem hlt]
    by_cases h : k = i
    · subst h; simp [DecNode.child_setChild]
    · simp [h, Ne.symm h]
  · rw [if_neg (by omega), childOf_eq_none_of_le le_rfl]
    simp [Nat.ne_of_lt hk, DecNode.child]
  · rw [if_neg (by omega), childOf_eq_none_of_le (by omega), List.getElem?_eq_none (by simp; omega)]
    rfl

/-! ### The tree -/

/-- `nodes` is a tree with `n` entries (10_state R59), but that node `tip`, where there is one,
may still lack both a leaf and a child: the end of the path DEC_COMMIT is inserting. -/
structure PathTree (n : Nat) (nodes : List DecNode) (tip : Option Nat) : Prop where
  pos : 0 < nodes.length
  root : leafOf nodes 0 = none
  child : ∀ k b m, childOf nodes k b = some m → k < m ∧ m < nodes.length ∧ leafOf nodes k = none
  unique : ∀ k k' b b' m, childOf nodes k b = some m → childOf nodes k' b' = some m →
    k = k' ∧ b = b'
  entry : ∀ k j, leafOf nodes k = some j → j < n
  used : ∀ k < nodes.length, k ≠ 0 → tip ≠ some k →
    (leafOf nodes k).isSome ∨ (childOf nodes k false).isSome ∨ (childOf nodes k true).isSome

/-- A node with a child is a node. -/
theorem lt_length_of_childOf {nodes : List DecNode} {k m : Nat} {b : Bit}
    (h : childOf nodes k b = some m) : k < nodes.length := by
  by_contra hge
  rw [childOf_eq_none_of_le (by omega)] at h
  cases h

theorem lt_length_of_leafOf {nodes : List DecNode} {k j : Nat} (h : leafOf nodes k = some j) :
    k < nodes.length := by
  by_contra hge
  rw [leafOf_eq_none_of_le (by omega)] at h
  cases h

theorem Decoder.treeOk_iff {d : Decoder} :
    d.treeOk ↔ (d.state = .load ∨ d.state = .done →
      PathTree d.sym.length d.node none ∧ d.sym.Nodup ∧ ∀ y ∈ d.sym, y ≠ []) := by
  refine forall_congr' fun _ => ⟨fun ⟨hp, hr, hc, hu, he, hn, hs⟩ => ⟨⟨hp, hr, ?_, ?_, ?_, ?_⟩, hs⟩,
    fun ⟨h, hs⟩ => ⟨h.pos, h.root, ?_, ?_, ?_, ?_, hs⟩⟩
  · exact fun k b m hm => hc k (lt_length_of_childOf hm) b m hm
  · exact fun k k' b b' m hm hm' =>
      hu k (lt_length_of_childOf hm) k' (lt_length_of_childOf hm') b b' m hm hm'
  · exact fun k j hj => he k (lt_length_of_leafOf hj) j hj
  · exact fun k hk h0 _ => hn k hk h0
  · exact fun k _ b m hm => h.child k b m hm
  · exact fun k _ k' _ b b' m hm hm' => h.unique k k' b b' m hm hm'
  · exact fun k _ j hj => h.entry k j hj
  · exact fun k hk h0 => h.used k hk h0 (by simp)

/-- More entries leave a tree a tree. -/
theorem PathTree.mono {n n' : Nat} {nodes : List DecNode} {tip : Option Nat} (hn : n ≤ n')
    (h : PathTree n nodes tip) : PathTree n' nodes tip :=
  { h with entry := fun k j hj => Nat.lt_of_lt_of_le (h.entry k j hj) hn }

/-- One round of DEC_COMMIT's loop: the tree with a new node below `k`, which is the only one that
may still lack a leaf and a child. -/
theorem PathTree.growNode {n : Nat} {nodes : List DecNode} {tip : Option Nat} {k : Nat} {b : Bit}
    {l : Option Nat} (h : PathTree n nodes tip) (htip : tip = none ∨ tip = some k)
    (hk : k < nodes.length) (hleaf : leafOf nodes k = none) (hfree : childOf nodes k b = none)
    (hl : ∀ j ∈ l, j < n) : PathTree n (growNode nodes k b l) (some nodes.length) where
  pos := by simp
  root := by rw [leafOf_growNode, if_neg (by omega), h.root]
  child i b' m hm := by
    rw [childOf_growNode hk] at hm
    rw [growNode_length, leafOf_growNode]
    split at hm
    · next hi =>
      cases hm
      rw [if_neg (by omega), hi.1]
      exact ⟨hk, by omega, hleaf⟩
    · obtain ⟨hlt, hlen, hnone⟩ := h.child i b' m hm
      rw [if_neg (by omega)]
      exact ⟨hlt, by omega, hnone⟩
  unique i i' b₁ b₂ m hm hm' := by
    rw [childOf_growNode hk] at hm hm'
    split at hm <;> split at hm'
    · next hi hi' => exact ⟨hi.1.trans hi'.1.symm, hi.2.trans hi'.2.symm⟩
    · cases hm
      obtain ⟨-, hlen, -⟩ := h.child i' b₂ _ hm'
      omega
    · cases hm'
      obtain ⟨-, hlen, -⟩ := h.child i b₁ _ hm
      omega
    · exact h.unique i i' b₁ b₂ m hm hm'
  entry i j hj := by
    rw [leafOf_growNode] at hj
    split at hj
    · exact hl j hj
    · exact h.entry i j hj
  used i hi h0 ht := by
    rw [growNode_length] at hi
    have hne : i ≠ nodes.length := fun he => ht (he ▸ rfl)
    simp only [leafOf_growNode, childOf_growNode hk, if_neg hne]
    by_cases hik : i = k
    · cases b <;> simp [hik]
    · simp only [hik, false_and, if_false]
      refine h.used i (by omega) h0 ?_
      obtain rfl | rfl := htip
      · simp
      · exact fun he => hik (Option.some.inj he).symm

/-- DEC_COMMIT's loop: the rest of a code inserted below a node that is no leaf and has no child for
its first bit gives a tree, with the new entry `j`. -/
theorem insertPath_pathTree {n j : Nat} (hj : j < n) (rest : Code) (b : Bit) (nodes : List DecNode)
    (tip : Option Nat) (k : Nat) (h : PathTree n nodes tip) (htip : tip = none ∨ tip = some k)
    (hk : k < nodes.length) (hleaf : leafOf nodes k = none) (hfree : childOf nodes k b = none) :
    PathTree n (insertPath j nodes k (b :: rest)) none := by
  induction rest generalizing b nodes tip k with
  | nil =>
    have hg := h.growNode (l := some j) htip hk hleaf hfree (by simpa using hj)
    rw [insertPath_cons, if_pos rfl, insertPath]
    refine { hg with used := fun i hi h0 _ => ?_ }
    by_cases he : i = nodes.length
    · exact .inl (by simp [leafOf_growNode, he])
    · exact hg.used i hi h0 fun h => he (Option.some.inj h).symm
  | cons b' rest ih =>
    have hg := h.growNode (l := none) htip hk hleaf hfree (by simp)
    rw [insertPath_cons, if_neg (by simp)]
    refine ih b' _ _ _ hg (.inr rfl) (by simp) (by simp [leafOf_growNode]) ?_
    rw [childOf_growNode hk, if_neg (by omega), childOf_eq_none_of_le le_rfl]

/-- Where a new code leaves the tree (46_table_loader R274): at a node that is no leaf and has no
child for the code's next bit. -/
theorem descend_ok {n : Nat} {nodes : List DecNode} {tip : Option Nat} (h : PathTree n nodes tip)
    {code : Code} {k₀ d₀ k d : Nat} (hk₀ : k₀ < nodes.length) (hl₀ : leafOf nodes k₀ = none)
    (hd : descend nodes k₀ d₀ code = .ok (k, d)) :
    k < nodes.length ∧ leafOf nodes k = none ∧
    ∃ b rest, d₀ ≤ d ∧ code.drop (d - d₀) = b :: rest ∧ childOf nodes k b = none := by
  induction code generalizing k₀ d₀ with
  | nil => cases hd
  | cons b rest ih =>
    unfold descend at hd
    split at hd
    · next hc =>
      cases hd
      exact ⟨hk₀, hl₀, b, rest, le_rfl, by simp, hc⟩
    · next m hc =>
      split at hd
      · cases hd
      · next hm =>
        obtain ⟨-, hlen, -⟩ := h.child k₀ b m hc
        obtain ⟨hk, hl, b', rest', hle, hdrop, hfree⟩ :=
          ih hlen (Option.not_isSome_iff_eq_none.mp hm) hd
        refine ⟨hk, hl, b', rest', by omega, ?_, hfree⟩
        rw [← hdrop, show d - d₀ = (d - (d₀ + 1)) + 1 by omega, List.drop_succ_cons]

/-! ### What the decoder's commands do -/

theorem decAddCpBody_ok {c : Config} {a v : Word} {d d' : Decoder}
    (h : decAddCpBody c a d = .ok (v, d')) :
    d.psym.length ≠ c.wMax ∧ ∃ cp, d' = { d with psym := d.psym ++ [cp] } := by
  obtain ⟨cp, -, h⟩ := except_bind_ok.mp h
  obtain ⟨l, hl, h⟩ := except_map_ok.mp h
  obtain ⟨hc, rfl⟩ := appendCapped_ok hl
  cases h
  exact ⟨hc, cp, rfl⟩

theorem decAddBitBody_ok {c : Config} {a v : Word} {d d' : Decoder}
    (h : decAddBitBody c a d = .ok (v, d')) :
    d.pcode.length ≠ c.maxCodeLen ∧ ∃ b, d' = { d with pcode := d.pcode ++ [b] } := by
  obtain ⟨b, -, h⟩ := except_bind_ok.mp h
  obtain ⟨l, hl, h⟩ := except_map_ok.mp h
  obtain ⟨hc, rfl⟩ := appendCapped_ok hl
  cases h
  exact ⟨hc, b, rfl⟩

theorem decSetPadBody_ok {a v : Word} {d d' : Decoder} (h : decSetPadBody a d = .ok (v, d')) :
    ∃ p, d' = { d with pad := p, padValid := true } := by
  obtain ⟨p, -, h⟩ := except_map_ok.mp h
  cases h
  exact ⟨p, rfl⟩

theorem decPushByteBody_ok {c : Config} {a v : Word} {d d' : Decoder}
    (h : decPushByteBody c a d = .ok (v, d')) :
    d.bytes.length ≠ c.byteCap ∧ ∃ b, d' = { d with bytes := d.bytes ++ [b] } := by
  obtain ⟨b, -, h⟩ := except_bind_ok.mp h
  obtain ⟨l, hl, h⟩ := except_map_ok.mp h
  obtain ⟨hc, rfl⟩ := appendCapped_ok hl
  cases h
  exact ⟨hc, b, rfl⟩

theorem decRunBody_ok {c : Config} {v : Word} {d d' : Decoder} (h : decRunBody c d = .ok (v, d')) :
    ∃ out cnt, walk c d (validBits d) 0 [] 0 = .ok (out, cnt) ∧
      d' = { d with out := out, nout := cnt, state := .done } := by
  unfold decRunBody at h
  split at h
  · cases h
  · obtain ⟨⟨out, cnt⟩, hw, h⟩ := except_map_ok.mp h
    cases h
    exact ⟨out, cnt, hw, rfl⟩

/-- DEC_COMMIT's checks and its effect, in order (46_table_loader R273, R275). -/
theorem decCommitBody_ok {c : Config} {v : Word} {d d' : Decoder}
    (h : decCommitBody c d = .ok (v, d')) :
    d.psym ≠ [] ∧ d.psym ∉ d.sym ∧ ∃ k n, descend d.node 0 0 d.pcode = .ok (k, n) ∧
      d.sym.length ≠ c.nSym ∧ d.node.length + (d.pcode.length - n) ≤ c.dnodeCap ∧
      d' = { d with node := insertPath d.sym.length d.node k (d.pcode.drop n),
                    sym := d.sym ++ [d.psym], psym := [], pcode := [] } := by
  unfold decCommitBody at h
  split at h
  · cases h
  next hy =>
  split at h
  · cases h
  split at h
  · cases h
  next hmem =>
  obtain ⟨⟨k, n⟩, hd, h⟩ := except_bind_ok.mp h
  dsimp only at h
  split at h
  · cases h
  next hn =>
  split at h
  · cases h
  next hcap =>
  cases h
  exact ⟨hy, hmem, k, n, hd, hn, by omega, rfl⟩

/-! ### Every step keeps the tree -/

/-- A command that changes neither the nodes nor the entries keeps the tree. -/
theorem Decoder.treeOk.of_eq {d d' : Decoder} (h : d.treeOk) (hs : d.state = .load)
    (hn : d'.node = d.node) (hy : d'.sym = d.sym) : d'.treeOk := by
  have ht := Decoder.treeOk_iff.mp h (.inl hs)
  rw [← hn, ← hy] at ht
  exact Decoder.treeOk_iff.mpr fun _ => ht

theorem pathTree_bareNode : PathTree 0 [bareNode] none where
  pos := by decide
  root := rfl
  child k b m hm := by
    obtain rfl : k = 0 := Nat.lt_one_iff.mp (lt_length_of_childOf hm)
    cases b <;> cases hm
  unique k k' b b' m hm _ := by
    obtain rfl : k = 0 := Nat.lt_one_iff.mp (lt_length_of_childOf hm)
    cases b <;> cases hm
  entry k j hj := by
    obtain rfl : k = 0 := Nat.lt_one_iff.mp (lt_length_of_leafOf hj)
    cases hj
  used k hk h0 := absurd (Nat.lt_one_iff.mp hk) h0

theorem decCommitBody_treeOk {c : Config} {v : Word} {d d' : Decoder}
    (hb : decCommitBody c d = .ok (v, d')) (hs : d.state = .load) (h : d.treeOk) : d'.treeOk := by
  obtain ⟨hy, hmem, k, n, hd, -, -, rfl⟩ := decCommitBody_ok hb
  obtain ⟨ht, hnodup, hne⟩ := Decoder.treeOk_iff.mp h (.inl hs)
  obtain ⟨hk, hl, b, rest, -, hdrop, hfree⟩ := descend_ok ht ht.pos ht.root hd
  refine Decoder.treeOk_iff.mpr fun _ => ⟨?_, ?_, fun y hym => ?_⟩
  · rw [Nat.sub_zero] at hdrop
    simp only [hdrop, List.length_append, List.length_singleton]
    exact insertPath_pathTree (by omega) rest b _ none k (ht.mono (by omega)) (.inl rfl) hk hl hfree
  · exact List.nodup_append.mpr ⟨hnodup, List.nodup_singleton _, fun y hym z hz he =>
      hmem (List.mem_singleton.mp hz ▸ he ▸ hym)⟩
  · obtain hym | hym := List.mem_append.mp hym
    · exact hne y hym
    · rw [List.mem_singleton.mp hym]; exact hy

theorem DecMove.treeOk {c : Config} {d d' : Decoder} {w w' : Word} (h : DecMove c d w d' w')
    (ht : d.treeOk) : d'.treeOk := by
  cases h with
  | keep => exact ht
  | reset | idle | fail => exact fun hs => by simp [Decoder.empty] at hs
  | start => exact Decoder.treeOk_iff.mpr fun _ => ⟨pathTree_bareNode, List.nodup_nil, fun _ h => nomatch h⟩
  | addCp a v _ hs hb => obtain ⟨-, cp, rfl⟩ := decAddCpBody_ok hb; exact ht.of_eq hs rfl rfl
  | addBit a v _ hs hb => obtain ⟨-, b, rfl⟩ := decAddBitBody_ok hb; exact ht.of_eq hs rfl rfl
  | commit v _ hs hb => exact decCommitBody_treeOk hb hs ht
  | setPad a v _ hs hb => obtain ⟨p, rfl⟩ := decSetPadBody_ok hb; exact ht.of_eq hs rfl rfl
  | pushByte a v _ hs hb => obtain ⟨-, b, rfl⟩ := decPushByteBody_ok hb; exact ht.of_eq hs rfl rfl
  | run v _ hs hb => obtain ⟨out, cnt, -, rfl⟩ := decRunBody_ok hb; exact ht.of_eq hs rfl rfl

/-! ### The statements -/

/-- Settles O59: each move of the decoder keeps the tree; DEC_COMMIT adds one path to it. -/
theorem everyStepKeepsTheDecodeTree : Obligations.EveryStepKeepsTheDecodeTree :=
  fun _ _ ht h => (step_decMove h).treeOk ht

end Sys2Proof.Machine
end

section
/-! PROOFS, part 4. The internal memories stay within their capacities (10_state R40, R55;
20_memory R79). -/

namespace Sys2Proof.Machine

/-! ### The size of the encoder's tree (10_state R50, 42_tree_builder R180) -/

/-- The id POPMIN picks is one of the queue's. -/
theorem minId_mem (nodes : List EncNode) (k : Nat) (q : List Nat) : minId nodes k q ∈ k :: q := by
  induction q generalizing k with
  | nil => exact List.mem_singleton.mpr rfl
  | cons j q ih =>
    rw [minId]
    split
    · obtain h | h := List.mem_cons.mp (ih k)
      · rw [h]; exact List.mem_cons_self
      · exact List.mem_cons_of_mem _ (List.mem_cons_of_mem _ h)
    · exact List.mem_cons_of_mem _ (ih j)

/-- POPMIN takes one id off the queue. -/
theorem popMin_length {nodes : List EncNode} {q q' : List Nat} {x : Nat}
    (h : popMin nodes q = some (x, q')) : q.length = q'.length + 1 := by
  cases q with
  | nil => cases h
  | cons k q =>
    cases h
    rw [List.length_erase_of_mem (minId_mem nodes k q)]
    rfl

/-- A merge adds one node and leaves one id fewer. -/
theorem mergeStep_length {nodes nodes' : List EncNode} {q q' : List Nat}
    (h : mergeStep nodes q = some (nodes', q')) :
    nodes'.length = nodes.length + 1 ∧ q.length = q'.length + 1 ∧ 1 ≤ q'.length := by
  unfold mergeStep at h
  split at h
  · cases h
  next x q₁ h₁ =>
  split at h
  · cases h
  next y q₂ h₂ =>
  cases h
  have hq₁ := popMin_length h₁
  have hq₂ := popMin_length h₂
  simp only [List.length_append, List.length_singleton]
  exact ⟨trivial, by omega, by omega⟩

/-- The merges of a queue that is not empty add fewer nodes than it has ids. -/
theorem mergeAll_length (fuel : Nat) (nodes : List EncNode) (q : List Nat) (hq : 1 ≤ q.length) :
    (mergeAll fuel nodes q).1.length + 1 ≤ nodes.length + q.length := by
  induction fuel generalizing nodes q with
  | zero => simp only [mergeAll]; omega
  | succ fuel ih =>
    unfold mergeAll
    split
    · next nodes' q' h =>
      obtain ⟨hn, hlen, hpos⟩ := mergeStep_length h
      have := ih nodes' q' hpos
      omega
    · simp only; omega

/-- The tree of `n` symbols has at most `2 n - 1` nodes (10_state R40). -/
theorem buildTree_length (n : Nat) (freq : List Nat) : (buildTree n freq).1.length ≤ 2 * n - 1 := by
  cases n with
  | zero => exact Nat.le_refl 0
  | succ n =>
    have := mergeAll_length (n + 1) (leafNodes (n + 1) freq) (List.range (n + 1)) (by simp)
    simp only [leafNodes_length, List.length_range] at this
    simp only [buildTree]
    omega

/-! ### The lengths of the codes and of the output -/

theorem le_foldl_max_length (code : List Code) (m : Nat) :
    m ≤ code.foldl (fun m k => max m k.length) m ∧
    ∀ k ∈ code, k.length ≤ code.foldl (fun m k => max m k.length) m := by
  induction code generalizing m with
  | nil => simp
  | cons a code ih =>
    obtain ⟨hm, hc⟩ := ih (max m a.length)
    refine ⟨le_trans (le_max_left _ _) hm, fun k hk => ?_⟩
    obtain rfl | hk := List.mem_cons.mp hk
    · exact le_trans (le_max_right _ _) hm
    · exact hc k hk

/-- No code is longer than the longest (43_code_assigner R200). -/
theorem length_le_longestCode {code : List Code} {k : Code} (h : k ∈ code) :
    k.length ≤ longestCode code := (le_foldl_max_length code 0).2 k h

/-- The walk stops before its output exceeds OUT_CAP (47_bitstream_walker R310, check 6). -/
theorem walk_length {c : Config} {d : Decoder} {bits : List Bit} {k cnt : Nat} {out : List CP}
    {r : List CP × Nat} (hl : out.length ≤ c.outCap) (h : walk c d bits k out cnt = .ok r) :
    r.1.length ≤ c.outCap := by
  induction bits generalizing k out cnt with
  | nil =>
    unfold walk at h
    split at h
    · cases h
    · cases h; exact hl
  | cons b bits ih =>
    unfold walk at h
    split at h
    · cases h
    · split at h
      · exact ih hl h
      · split at h
        · cases h
        · next hcap => exact ih (by rw [List.length_append]; omega) h

/-! ### The units within their capacities -/

theorem Encoder.memoryWf_iff {c : Config} {e : Encoder} :
    e.memoryWf c = true ↔
      e.sym.length ≤ c.nSym ∧ (∀ y ∈ e.sym, y.length ≤ c.wMax) ∧ e.freq.length ≤ c.nSym ∧
      e.stream.length ≤ c.streamCap ∧ e.word.length ≤ c.wMax ∧ e.node.length ≤ 2 * c.nSym - 1 ∧
      e.code.length ≤ c.nSym ∧ (∀ k ∈ e.code, k.length ≤ c.maxCodeLen) ∧
      e.bytes.length ≤ c.byteCap := by
  simp [Encoder.memoryWf, and_assoc]

theorem Decoder.memoryWf_iff {c : Config} {d : Decoder} :
    d.memoryWf c = true ↔
      d.sym.length ≤ c.nSym ∧ (∀ y ∈ d.sym, y.length ≤ c.wMax) ∧ d.psym.length ≤ c.wMax ∧
      d.pcode.length ≤ c.maxCodeLen ∧ d.node.length ≤ c.dnodeCap ∧ d.bytes.length ≤ c.byteCap ∧
      d.out.length ≤ c.outCap := by
  simp [Decoder.memoryWf, and_assoc]

/-- What the constraints of 00_scope R8 give the memories that start with one element. -/
theorem Config.wf_pos {c : Config} (h : c.wf = true) : 1 ≤ c.wMax ∧ 1 ≤ c.dnodeCap := by
  simp only [Config.wf, Bool.and_eq_true, decide_eq_true_eq] at h
  omega

/-- Emitting the pending run keeps the analyser's memories within their capacities. -/
theorem emitWord_analyserWf {c : Config} {e e' : Encoder} (hl : e.word.length ≤ c.wMax)
    (h : emitWord c e = .ok e') (hw : analyserWf c e) : analyserWf c e' := by
  obtain ⟨-, rfl⟩ | ⟨-, e₁, he, rfl⟩ := emitWord_ok h
  · exact hw
  · exact (emit_analyserWf hl hw he :)

/-- A code point keeps the analyser's memories and the pending run within their capacities. -/
theorem pushCodePoint_analyserWf {c : Config} {cp : CP} {e e' : Encoder} (hc : 1 ≤ c.wMax)
    (hl : e.word.length ≤ c.wMax) (h : pushCodePoint c cp e = .ok e') (hw : analyserWf c e) :
    analyserWf c e' ∧ e'.word.length ≤ c.wMax := by
  obtain ⟨-, he⟩ | ⟨-, hne, rfl⟩ | ⟨-, e₁, h₁, he⟩ := pushCodePoint_ok h
  · obtain ⟨-, -, hword, -⟩ := emit_frame he
    exact ⟨emit_analyserWf (y := [cp]) hc hw he, by rw [hword]; exact hl⟩
  · exact ⟨hw, by simp only [List.length_append, List.length_singleton]; omega⟩
  · obtain ⟨-, -, hword, -⟩ := emit_frame he
    obtain ⟨-, -, hword₁, -⟩ := emitWord_frame h₁
    refine ⟨emit_analyserWf (y := [cp]) hc (emitWord_analyserWf hl h₁ hw) he, ?_⟩
    rw [hword, hword₁]
    exact Nat.zero_le _

theorem EncMove.memoryWf {c : Config} {e e' : Encoder} {w w' : Word} (h : EncMove c e w e' w')
    (hc : c.wf = true) (ha : e.analysisOk) (hm : e.memoryWf c = true) : e'.memoryWf c = true := by
  have analyser : e.state = .loading → analyserWf c e := fun hs => by
    obtain ⟨hy, hyl, hf, hst, -⟩ := Encoder.memoryWf_iff.mp hm
    obtain ⟨ht, -⟩ := Encoder.analysisOk_iff.mp ha (.inl hs)
    exact ⟨hy, hyl, hf, ht.aligned, hst⟩
  obtain ⟨hy, hyl, hf, hst, hwl, hn, hk, hkl, hb⟩ := Encoder.memoryWf_iff.mp hm
  cases h with
  | keep | idle | fail => exact hm
  | reset | start => exact Encoder.memoryWf_iff.mpr (by simp [freshEncoder, Encoder.empty])
  | push a v _ hs hp =>
    obtain ⟨cp, hp⟩ := encPushBody_ok hp
    obtain ⟨-, -, hn', hk', hb'⟩ := pushCodePoint_frame hp
    obtain ⟨⟨hy₁, hyl₁, hf₁, -, hst₁⟩, hwl₁⟩ :=
      pushCodePoint_analyserWf (Config.wf_pos hc).1 hwl hp (analyser hs)
    rw [← hn'] at hn
    rw [← hk'] at hk hkl
    rw [← hb'] at hb
    exact Encoder.memoryWf_iff.mpr ⟨hy₁, hyl₁, hf₁, hst₁, hwl₁, hn, hk, hkl, hb⟩
  | finish v _ hs hx =>
    obtain ⟨e₁, hp, rfl⟩ := encEndBody_ok hx
    obtain ⟨-, -, hw', hn', hk', hb'⟩ := emitWord_frame hp
    obtain ⟨hy₁, hyl₁, hf₁, -, hst₁⟩ := emitWord_analyserWf hwl hp (analyser hs)
    rw [← hn'] at hn
    rw [← hk'] at hk hkl
    rw [← hb'] at hb
    exact Encoder.memoryWf_iff.mpr
      ⟨hy₁, hyl₁, hf₁, hst₁, by rw [hw']; exact Nat.zero_le _, hn, hk, hkl, hb⟩
  | build v _ hs hp =>
    cases encBuildBody_ok hp
    refine Encoder.memoryWf_iff.mpr ⟨hy, hyl, hf, hst, hwl, ?_, hk, hkl, hb⟩
    have := buildTree_length e.sym.length e.freq
    simp only
    omega
  | assign v _ hs hp =>
    obtain ⟨hlong, rfl⟩ := encAssignBody_ok hp
    exact Encoder.memoryWf_iff.mpr ⟨hy, hyl, hf, hst, hwl, hn, (codeTable_length _ _ _).trans_le hy,
      fun k hk => le_trans (length_le_longestCode hk) hlong, hb⟩
  | pack v _ hs hp =>
    obtain ⟨hcap, rfl⟩ := encPackBody_ok hp
    exact Encoder.memoryWf_iff.mpr
      ⟨hy, hyl, hf, hst, hwl, hn, hk, hkl, (packBits_length _).trans_le hcap⟩

theorem DecMove.memoryWf {c : Config} {d d' : Decoder} {w w' : Word} (h : DecMove c d w d' w')
    (hc : c.wf = true) (hm : d.memoryWf c = true) : d'.memoryWf c = true := by
  obtain ⟨hy, hyl, hp, hk, hn, hb, ho⟩ := Decoder.memoryWf_iff.mp hm
  have room {α : Type} {l : List α} {cap : Nat} (v : α) (hl : l.length ≤ cap)
      (hne : l.length ≠ cap) : (l ++ [v]).length ≤ cap := by
    rw [List.length_append, List.length_singleton]
    omega
  cases h with
  | keep | idle | fail => exact hm
  | reset => exact Decoder.memoryWf_iff.mpr (by simp [Decoder.empty])
  | start =>
    exact Decoder.memoryWf_iff.mpr
      (by simpa [freshDecoder, Decoder.empty] using (Config.wf_pos hc).2)
  | addCp a v _ hs hx =>
    obtain ⟨hne, cp, rfl⟩ := decAddCpBody_ok hx
    exact Decoder.memoryWf_iff.mpr ⟨hy, hyl, room cp hp hne, hk, hn, hb, ho⟩
  | addBit a v _ hs hx =>
    obtain ⟨hne, b, rfl⟩ := decAddBitBody_ok hx
    exact Decoder.memoryWf_iff.mpr ⟨hy, hyl, hp, room b hk hne, hn, hb, ho⟩
  | commit v _ hs hx =>
    obtain ⟨-, -, k, n, -, hne, hcap, rfl⟩ := decCommitBody_ok hx
    refine Decoder.memoryWf_iff.mpr
      ⟨room d.psym hy hne, fun y hym => ?_, Nat.zero_le _, Nat.zero_le _, ?_, hb, ho⟩
    · obtain hym | hym := List.mem_append.mp hym
      · exact hyl y hym
      · rw [List.mem_singleton.mp hym]; exact hp
    · rw [insertPath_length, List.length_drop]
      exact hcap
  | setPad a v _ hs hx =>
    obtain ⟨p, rfl⟩ := decSetPadBody_ok hx
    exact hm
  | pushByte a v _ hs hx =>
    obtain ⟨hne, b, rfl⟩ := decPushByteBody_ok hx
    exact Decoder.memoryWf_iff.mpr ⟨hy, hyl, hp, hk, hn, room b hb hne, ho⟩
  | run v _ hs hx =>
    obtain ⟨out, cnt, hw, rfl⟩ := decRunBody_ok hx
    exact Decoder.memoryWf_iff.mpr ⟨hy, hyl, hp, hk, hn, hb, walk_length (Nat.zero_le _) hw⟩

/-! ### The statements -/

/-- Settles O56: each unit's move keeps its memories within the capacities, which no step changes. -/
theorem everyStepKeepsMemoriesWithinCapacity : Obligations.EveryStepKeepsMemoriesWithinCapacity := by
  intro s t hc hm ha h
  obtain ⟨he, hd⟩ := Bool.and_eq_true_iff.mp hm
  rw [State.memoryWf, step_cfg h, Bool.and_eq_true]
  exact ⟨(step_encMove h).memoryWf hc ha he, (step_decMove h).memoryWf hc hd⟩

end Sys2Proof.Machine
end

section
/-! PROOFS, part 5. The registers: STATUS, the constant registers, ENC_ERR and DEC_ERR, and the
values after reset. -/

namespace Sys2Proof.Machine

/-! ### The constant registers (10_state R31, R38) -/

/-- ID and the offsets 0x20 to 0x3C are read from the parameters alone. -/
theorem registerValue_of_cfg {s t : State} (h : t.cfg = s.cfg) {off : Nat}
    (ho : off = 0x00 ∨ (0x20 ≤ off ∧ off ≤ 0x3C)) : registerValue t off = registerValue s off := by
  obtain rfl | ⟨hl, hu⟩ := ho
  · rfl
  · interval_cases off <;> simp only [registerValue, h]

/-! ### The ERR registers (10_state R37) -/

/-- A register that is 0 agrees with a unit outside ERROR. -/
theorem errRegisterOk_zero {inError : Prop} (h : ¬ inError) : errRegisterOk inError 0 :=
  ⟨fun he => absurd he h, fun _ => rfl⟩

/-- From one state outside ERROR to another the register is kept. -/
theorem errRegisterOk.of_not {p q : Prop} {w : Word} (h : errRegisterOk p w) (hp : ¬ p)
    (hq : ¬ q) : errRegisterOk q w := by
  rw [h.2 hp]
  exact errRegisterOk_zero hq

/-- A failure records its cause, or keeps the first one (40_control R132). -/
theorem errRegisterOk.fail {p q : Prop} [Decidable p] {w : Word} {st : Stage} {rc : ResultCode}
    (h : errRegisterOk p w) (hrc : rc.IsFailure) (hq : q) :
    errRegisterOk q (if p then w else errWord st rc) := by
  refine ⟨fun _ => ?_, fun hn => absurd hq hn⟩
  split
  · next he => exact h.1 he
  · exact ⟨st, rc, rfl, hrc⟩

theorem EncMove.errRegisterOk {c : Config} {e e' : Encoder} {w w' : Word}
    (h : EncMove c e w e' w') (hw : errRegisterOk (e.state = .error) w) :
    errRegisterOk (e'.state = .error) w' := by
  cases h with
  | keep => exact hw
  | reset | idle | start => exact errRegisterOk_zero (by simp [freshEncoder, Encoder.empty])
  | fail st rc hrc => exact hw.fail hrc rfl
  | push a v _ hs hb =>
    obtain ⟨cp, hp⟩ := encPushBody_ok hb
    obtain ⟨hs', -⟩ := pushCodePoint_frame hp
    exact hw.of_not (by simp [hs]) (by simp [hs', hs])
  | finish v _ hs hb =>
    obtain ⟨e₁, -, rfl⟩ := encEndBody_ok hb
    exact hw.of_not (by simp [hs]) (by simp)
  | build v _ hs hb => cases encBuildBody_ok hb; exact hw.of_not (by simp [hs]) (by simp)
  | assign v _ hs hb =>
    obtain ⟨-, rfl⟩ := encAssignBody_ok hb
    exact hw.of_not (by simp [hs]) (by simp)
  | pack v _ hs hb =>
    obtain ⟨-, rfl⟩ := encPackBody_ok hb
    exact hw.of_not (by simp [hs]) (by simp)

/-- No successful decoder command leads to ERROR: the state is LOAD still, or DONE. -/
theorem DecMove.errRegisterOk {c : Config} {d d' : Decoder} {w w' : Word}
    (h : DecMove c d w d' w') (hw : errRegisterOk (d.state = .error) w) :
    errRegisterOk (d'.state = .error) w' := by
  cases h with
  | keep => exact hw
  | reset | idle | start => exact errRegisterOk_zero (by simp [freshDecoder, Decoder.empty])
  | fail st rc hrc => exact hw.fail hrc rfl
  | addCp a v _ hs hb =>
    obtain ⟨-, cp, rfl⟩ := decAddCpBody_ok hb
    exact hw.of_not (by simp [hs]) (by simp [hs])
  | addBit a v _ hs hb =>
    obtain ⟨-, b, rfl⟩ := decAddBitBody_ok hb
    exact hw.of_not (by simp [hs]) (by simp [hs])
  | commit v _ hs hb =>
    obtain ⟨-, -, k, n, -, -, -, rfl⟩ := decCommitBody_ok hb
    exact hw.of_not (by simp [hs]) (by simp [hs])
  | setPad a v _ hs hb =>
    obtain ⟨p, rfl⟩ := decSetPadBody_ok hb
    exact hw.of_not (by simp [hs]) (by simp [hs])
  | pushByte a v _ hs hb =>
    obtain ⟨-, b, rfl⟩ := decPushByteBody_ok hb
    exact hw.of_not (by simp [hs]) (by simp [hs])
  | run v _ hs hb =>
    obtain ⟨out, cnt, -, rfl⟩ := decRunBody_ok hb
    exact hw.of_not (by simp [hs]) (by simp)

/-! ### The fields of STATUS (10_state R36) -/

theorem status_encState (s : State) : s.status.extractLsb' 0 4 = s.enc.state.code :=
  BitVec.extractLsb'_append_eq_right

theorem status_decState (s : State) : s.status.extractLsb' 4 4 = s.dec.state.code :=
  (BitVec.extractLsb'_append_eq_of_le (by decide)).trans BitVec.extractLsb'_append_eq_right

theorem status_lastRc (s : State) : s.status.extractLsb' 8 8 = s.lastRc.code :=
  calc s.status.extractLsb' 8 8
    _ = (BitVec.ofBool s.busy ++ (0 : BitVec 11) ++ s.lastStage.code ++ s.lastRc.code ++
          s.dec.state.code).extractLsb' 4 8 := BitVec.extractLsb'_append_eq_of_le (by decide)
    _ = (BitVec.ofBool s.busy ++ (0 : BitVec 11) ++ s.lastStage.code ++
          s.lastRc.code).extractLsb' 0 8 := BitVec.extractLsb'_append_eq_of_le (by decide)
    _ = s.lastRc.code := BitVec.extractLsb'_append_eq_right

/-- The bits of STATUS above LAST_RC. -/
theorem status_extractLsb'_high (s : State) (i n : Nat) :
    s.status.extractLsb' (16 + i) n =
      (BitVec.ofBool s.busy ++ (0 : BitVec 11) ++ s.lastStage.code).extractLsb' i n :=
  calc s.status.extractLsb' (16 + i) n
    _ = (BitVec.ofBool s.busy ++ (0 : BitVec 11) ++ s.lastStage.code ++ s.lastRc.code ++
          s.dec.state.code).extractLsb' (16 + i - 4) n :=
      BitVec.extractLsb'_append_eq_of_le (by omega)
    _ = (BitVec.ofBool s.busy ++ (0 : BitVec 11) ++ s.lastStage.code ++
          s.lastRc.code).extractLsb' (16 + i - 4 - 4) n :=
      BitVec.extractLsb'_append_eq_of_le (by omega)
    _ = (BitVec.ofBool s.busy ++ (0 : BitVec 11) ++ s.lastStage.code).extractLsb'
          (16 + i - 4 - 4 - 8) n := BitVec.extractLsb'_append_eq_of_le (by omega)
    _ = _ := by congr 1; omega

theorem status_lastStage (s : State) : s.status.extractLsb' 16 4 = s.lastStage.code :=
  (status_extractLsb'_high s 0 4).trans BitVec.extractLsb'_append_eq_right

theorem status_reserved (s : State) : s.status.extractLsb' 20 11 = 0 :=
  calc s.status.extractLsb' 20 11
    _ = _ := status_extractLsb'_high s 4 11
    _ = (BitVec.ofBool s.busy ++ (0 : BitVec 11)).extractLsb' 0 11 :=
      BitVec.extractLsb'_append_eq_of_le (by decide)
    _ = 0 := BitVec.extractLsb'_append_eq_right

theorem status_busy (s : State) : s.status.getLsbD 31 = s.pending.isSome := by
  rw [State.status_eq]
  simp only [BitVec.getLsbD_append]
  simp

/-! ### The statements -/

/-- Settles O57: a failure records a failure code and its stage, and every way out of ERROR clears
the register. -/
theorem everyStepKeepsErrRegistersHonest : Obligations.EveryStepKeepsErrRegistersHonest :=
  fun _ _ ⟨he, hd⟩ h => ⟨(step_encMove h).errRegisterOk he, (step_decMove h).errRegisterOk hd⟩

/-- Settles O16: no step changes the parameters, and these registers are read from them. -/
theorem constantRegistersNeverChange : Obligations.ConstantRegistersNeverChange :=
  fun _ _ h => ⟨step_cfg h, fun _ ho => registerValue_of_cfg (step_cfg h) ho⟩

/-- Settles O1: each register of the reset state, evaluated. -/
theorem resetStateHoldsTheListedValues : Obligations.ResetStateHoldsTheListedValues := by
  refine ⟨rfl, rfl, rfl, rfl, rfl, rfl, rfl, rfl, rfl, rfl, rfl, rfl, ?_, rfl, rfl, rfl, rfl, rfl⟩
  decide

/-- Settles O13: each field of STATUS, and the numbers of the four code tables. -/
theorem statusFieldsStandWhereTheSpecPutsThem :
    Obligations.StatusFieldsStandWhereTheSpecPutsThem := fun s =>
  ⟨status_encState s, status_decState s, status_lastRc s, status_lastStage s, status_reserved s,
    status_busy s, ⟨rfl, rfl, rfl, rfl, rfl, rfl, rfl⟩, ⟨rfl, rfl, rfl, rfl⟩,
    ⟨rfl, rfl, rfl, rfl, rfl, rfl, rfl, rfl⟩, ⟨rfl, rfl, rfl, rfl, rfl, rfl, rfl, rfl, rfl⟩⟩

/-- Settles O55: the parameters are the defaults, and both units are in IDLE, where the other
invariants ask for nothing. -/
theorem invariantsHoldAtReset : Obligations.InvariantsHoldAtReset := by
  refine ⟨by decide, by decide, State.reset_memoryWf, ⟨?_, ?_⟩, ?_, ?_, ?_, ?_⟩
  case refine_1 => exact errRegisterOk_zero (by decide)
  case refine_2 => exact errRegisterOk_zero (by decide)
  all_goals exact fun hs => absurd hs (by decide)

end Sys2Proof.Machine
end

section
/-! PROOFS, part 6. The fields the spec leaves undefined (10_state R49, R63, R64) are unobservable:
a step from `s` and the step from `s.defined` have the same defined part (`step_defined`). -/

namespace Sys2Proof.Machine

/-! ### The defined part of an outcome and of a state -/

/-- An outcome with the undefined fields of its state emptied. -/
def definedOutcome (o : Host.Outcome State Fault Refusal) : Host.Outcome State Fault Refusal :=
  match o with
  | .next s => .next s.defined
  | .fault f => .fault f
  | .refused r => .refused r

theorem sameDefined_iff {o p : Host.Outcome State Fault Refusal} :
    sameDefined o p ↔ definedOutcome o = definedOutcome p := by
  cases o <;> cases p <;> simp [sameDefined, definedOutcome]

@[simp] theorem definedOutcome_next (s : State) : definedOutcome (.next s) = .next s.defined := rfl

@[simp] theorem definedOutcome_finishCommand (o : Host.Outcome State Fault Refusal) :
    definedOutcome (finishCommand o) = finishCommand (definedOutcome o) := by
  cases o <;> rfl

@[simp] theorem Encoder.defined_state (e : Encoder) : e.defined.state = e.state := by
  unfold Encoder.defined
  split <;> simp_all

@[simp] theorem Decoder.defined_state (d : Decoder) : d.defined.state = d.state := by
  unfold Decoder.defined
  split <;> simp_all

@[simp] theorem Encoder.defined_defined (e : Encoder) : e.defined.defined = e.defined := by
  obtain ⟨st⟩ := e
  cases st <;> rfl

@[simp] theorem Decoder.defined_defined (d : Decoder) : d.defined.defined = d.defined := by
  obtain ⟨st⟩ := d
  cases st <;> rfl

/-! Every field but the two units is defined in every state, and every update keeps it so. -/

@[simp] theorem State.defined_cfg (s : State) : s.defined.cfg = s.cfg := rfl
@[simp] theorem State.defined_arg0 (s : State) : s.defined.arg0 = s.arg0 := rfl
@[simp] theorem State.defined_arg1 (s : State) : s.defined.arg1 = s.arg1 := rfl
@[simp] theorem State.defined_pending (s : State) : s.defined.pending = s.pending := rfl
@[simp] theorem State.defined_moves (s : State) : s.defined.moves = s.moves := rfl
@[simp] theorem State.defined_obs (s : State) : s.defined.obs = s.obs := rfl
@[simp] theorem State.defined_enc (s : State) : s.defined.enc = s.enc.defined := rfl
@[simp] theorem State.defined_dec (s : State) : s.defined.dec = s.dec.defined := rfl
@[simp] theorem State.defined_busy (s : State) : s.defined.busy = s.busy := rfl

@[simp] theorem State.defined_setEnc (s : State) (e : Encoder) :
    (s.setEnc e).defined = s.defined.setEnc e.defined := rfl
@[simp] theorem State.defined_setDec (s : State) (d : Decoder) :
    (s.setDec d).defined = s.defined.setDec d.defined := rfl
@[simp] theorem State.defined_setEncErr (s : State) (v : Word) :
    (s.setEncErr v).defined = s.defined.setEncErr v := rfl
@[simp] theorem State.defined_setDecErr (s : State) (v : Word) :
    (s.setDecErr v).defined = s.defined.setDecErr v := rfl
@[simp] theorem State.defined_setPending (s : State) (p : Option Word) :
    (s.setPending p).defined = s.defined.setPending p := rfl
@[simp] theorem State.defined_setMoves (s : State) (m : List Move) :
    (s.setMoves m).defined = s.defined.setMoves m := rfl
@[simp] theorem State.defined_setObs (s : State) (o : List Word) :
    (s.setObs o).defined = s.defined.setObs o := rfl
@[simp] theorem State.defined_setReport (s : State) (v : Word) (rc : ResultCode) (st : Stage) :
    (s.setReport v rc st).defined = s.defined.setReport v rc st := rfl
@[simp] theorem defined_complete (st : Stage) (v : Word) (s : State) :
    (complete st v s).defined = complete st v s.defined := rfl
@[simp] theorem defined_illegal (s : State) : (illegal s).defined = illegal s.defined := rfl

@[simp] theorem State.defined_defined (s : State) : s.defined.defined = s.defined := by
  have h : s.defined.defined = (s.defined.setEnc s.enc.defined.defined).setDec s.dec.defined.defined :=
    rfl
  rw [h, Encoder.defined_defined, Decoder.defined_defined]
  rfl

/-! ### Commands -/

@[simp] theorem Encoder.defined_error (e : Encoder) :
    Encoder.defined { e with state := .error } = { Encoder.empty with state := .error } := rfl
@[simp] theorem Decoder.defined_error (d : Decoder) :
    Decoder.defined { d with state := .error } = { Decoder.empty with state := .error } := rfl

/-- A failure sees the state of its unit alone, and leaves the unit's other fields undefined. -/
theorem defined_raise (u : CmdUnit) (rc : ResultCode) (st : Stage) (s : State) :
    (raise u rc st s).defined = (raise u rc st s.defined).defined := by
  cases u with
  | encoder => by_cases h : s.enc.state = .error <;> simp [raise, enterError, h]
  | decoder => by_cases h : s.dec.state = .error <;> simp [raise, enterError, h]

/-- The answer of an encoder command's body, the new E reduced to its defined part. -/
def definedEncResult (x : Except ResultCode (Word × Encoder)) : Except ResultCode (Word × Encoder) :=
  x.map fun r => (r.1, r.2.defined)

/-- The answer of a decoder command's body, the new D reduced to its defined part. -/
def definedDecResult (x : Except ResultCode (Word × Decoder)) : Except ResultCode (Word × Decoder) :=
  x.map fun r => (r.1, r.2.defined)

/-- An encoder command whose body does not depend on undefined fields does not either. -/
theorem defined_encCommand {st : Stage} {states : List EncState}
    {body : Encoder → Except ResultCode (Word × Encoder)} {s : State}
    (hb : s.enc.state ∈ states →
      definedEncResult (body s.enc) = definedEncResult (body s.enc.defined)) :
    (encCommand st states body s).defined = (encCommand st states body s.defined).defined := by
  by_cases hs : s.enc.state ∈ states
  · have hs' : s.defined.enc.state ∈ states := by simpa using hs
    obtain ⟨r, q, hx, hy, hrq⟩ | ⟨rc, hx, hy⟩ := except_map_eq_cases (hb hs)
    · obtain ⟨hv, hd⟩ := Prod.mk.inj hrq
      rw [encCommand_ok hs hx, encCommand_ok hs' hy]
      simp [hv, hd]
    · rw [encCommand_error hs hx, encCommand_error hs' hy]
      exact defined_raise _ _ _ s
  · have hs' : s.defined.enc.state ∉ states := by simpa using hs
    rw [encCommand_gate hs, encCommand_gate hs']
    exact defined_raise _ _ _ s

/-- A decoder command whose body does not depend on undefined fields does not either. -/
theorem defined_decCommand {st : Stage} {states : List DecState}
    {body : Decoder → Except ResultCode (Word × Decoder)} {s : State}
    (hb : s.dec.state ∈ states →
      definedDecResult (body s.dec) = definedDecResult (body s.dec.defined)) :
    (decCommand st states body s).defined = (decCommand st states body s.defined).defined := by
  by_cases hs : s.dec.state ∈ states
  · have hs' : s.defined.dec.state ∈ states := by simpa using hs
    obtain ⟨r, q, hx, hy, hrq⟩ | ⟨rc, hx, hy⟩ := except_map_eq_cases (hb hs)
    · obtain ⟨hv, hd⟩ := Prod.mk.inj hrq
      rw [decCommand_ok hs hx, decCommand_ok hs' hy]
      simp [hv, hd]
    · rw [decCommand_error hs hx, decCommand_error hs' hy]
      exact defined_raise _ _ _ s
  · have hs' : s.defined.dec.state ∉ states := by simpa using hs
    rw [decCommand_gate hs, decCommand_gate hs']
    exact defined_raise _ _ _ s

/-- A readout of defined fields does not depend on the others. -/
theorem defined_encReadout {states : List EncState} {read : Encoder → Except ResultCode Word}
    {s : State} (h : s.enc.state ∈ states → read s.enc.defined = read s.enc) :
    (encReadout states read s).defined = (encReadout states read s.defined).defined := by
  refine defined_encCommand fun hs => ?_
  rw [h hs]
  cases read s.enc <;> simp [definedEncResult, Except.map]

theorem defined_decReadout {states : List DecState} {read : Decoder → Except ResultCode Word}
    {s : State} (h : s.dec.state ∈ states → read s.dec.defined = read s.dec) :
    (decReadout states read s).defined = (decReadout states read s.defined).defined := by
  refine defined_decCommand fun hs => ?_
  rw [h hs]
  cases read s.dec <;> simp [definedDecResult, Except.map]

/-! ### The encoder's commands -/

/-- E without what the stages after the analyser write (10_state R49). -/
def Encoder.eraseLater (e : Encoder) : Encoder :=
  { e with node := [], root := none, code := [], bytes := [], pad := 0 }

theorem Encoder.defined_of_loading {e : Encoder} (h : e.state = .loading) :
    e.defined = e.eraseLater := by
  obtain ⟨st⟩ := e
  cases h
  rfl

theorem Encoder.defined_eraseLater {e : Encoder} (h : e.state = .loading ∨ e.state = .analyzed) :
    e.eraseLater.defined = e.defined := by
  obtain ⟨st⟩ := e
  obtain rfl | rfl := h <;> rfl

theorem emit_eraseLater (c : Config) (y : Symbol) (e : Encoder) :
    emit c y e.eraseLater = (emit c y e).map Encoder.eraseLater := by
  simp only [emit, Encoder.eraseLater]
  by_cases hs : e.stream.length = c.streamCap
  · simp only [hs, if_true]
    rfl
  · simp only [hs, if_false]
    cases e.sym.idxOf? y with
    | some i => rfl
    | none => by_cases hn : e.sym.length = c.nSym <;> simp only [hn, if_true, if_false] <;> rfl

theorem emitWord_eraseLater (c : Config) (e : Encoder) :
    emitWord c e.eraseLater = (emitWord c e).map Encoder.eraseLater := by
  rw [emitWord_eq, emitWord_eq, emit_eraseLater]
  simp only [Encoder.eraseLater]
  by_cases hw : e.word = []
  · simp [hw, Except.map, Encoder.eraseLater]
  · simp only [hw, if_false]
    cases emit c e.word e <;> rfl

theorem pushCodePoint_eraseLater (c : Config) (cp : CP) (e : Encoder) :
    pushCodePoint c cp e.eraseLater = (pushCodePoint c cp e).map Encoder.eraseLater := by
  have hmode : e.eraseLater.mode = e.mode := rfl
  rw [pushCodePoint_eq, pushCodePoint_eq, emitWord_eraseLater, emit_eraseLater, hmode]
  cases e.mode with
  | char => rfl
  | word =>
    dsimp only
    split
    · have hw : e.eraseLater.word = e.word := rfl
      rw [hw]
      cases appendCapped c.wMax cp e.word <;> rfl
    · cases emitWord c e with
      | ok e' => exact emit_eraseLater c [cp] e'
      | error rc => rfl

theorem encPushBody_defined (c : Config) (a : Word) {e : Encoder} (hs : e.state = .loading) :
    definedEncResult (encPushBody c a e) = definedEncResult (encPushBody c a e.defined) := by
  rw [Encoder.defined_of_loading hs, encPushBody_eq, encPushBody_eq]
  cases cpOperand a with
  | error rc => rfl
  | ok cp =>
    simp only [Except.bind, pushCodePoint_eraseLater]
    cases hp : pushCodePoint c cp e with
    | error rc => rfl
    | ok e' =>
      have hs' : e'.state = .loading := (pushCodePoint_frame hp).1.trans hs
      simp [definedEncResult, Except.map, Encoder.defined_eraseLater (.inl hs')]

theorem encEndBody_defined (c : Config) {e : Encoder} (hs : e.state = .loading) :
    definedEncResult (encEndBody c e) = definedEncResult (encEndBody c e.defined) := by
  rw [Encoder.defined_of_loading hs, encEndBody_eq, encEndBody_eq, emitWord_eraseLater]
  cases emitWord c e <;> rfl

theorem encBuildBody_defined {e : Encoder} (hs : e.state = .analyzed) :
    definedEncResult (encBuildBody e) = definedEncResult (encBuildBody e.defined) := by
  obtain ⟨st⟩ := e
  cases hs
  rfl

theorem encAssignBody_defined (c : Config) {e : Encoder} (hs : e.state = .built) :
    definedEncResult (encAssignBody c e) = definedEncResult (encAssignBody c e.defined) := by
  by_cases h : longestCode (codeTable e.sym.length e.node e.root) > c.maxCodeLen <;>
    simp [encAssignBody, definedEncResult, Except.map, Encoder.defined, hs, h]

theorem encPackBody_defined (c : Config) {e : Encoder} (hs : e.state = .assigned) :
    definedEncResult (encPackBody c e) = definedEncResult (encPackBody c e.defined) := by
  have hcode : e.defined.code = e.code := by simp [Encoder.defined, hs]
  have hstream : e.defined.stream = e.stream := by simp [Encoder.defined, hs]
  simp only [encPackBody, hcode, hstream]
  split
  · rfl
  · simp [definedEncResult, Except.map, Encoder.defined, hs]

/-- The analyser's table and stream are defined from ANALYZED on (10_state R49). -/
theorem Encoder.defined_of_tableStates {e : Encoder} (h : e.state ∈ tableStates) :
    e.defined.sym = e.sym ∧ e.defined.freq = e.freq ∧ e.defined.stream = e.stream := by
  simp only [tableStates, List.mem_cons, List.not_mem_nil, or_false] at h
  obtain h | h | h | h := h <;> simp [Encoder.defined, h]

/-- The code table is defined from ASSIGNED on (10_state R49). -/
theorem Encoder.defined_of_codeStates {e : Encoder} (h : e.state ∈ codeStates) :
    e.defined.sym = e.sym ∧ e.defined.code = e.code := by
  simp only [codeStates, List.mem_cons, List.not_mem_nil, or_false] at h
  obtain h | h := h <;> simp [Encoder.defined, h]

/-- The packed stream is defined in PACKED (10_state R49). -/
theorem Encoder.defined_of_packed {e : Encoder} (h : e.state ∈ [EncState.packed]) :
    e.defined.bytes = e.bytes ∧ e.defined.pad = e.pad := by
  simp [Encoder.defined, List.mem_singleton.mp h]

/-! ### The decoder's commands -/

/-- D without what DEC_RUN writes (10_state R63). -/
def Decoder.eraseOut (d : Decoder) : Decoder := { d with out := [], nout := 0 }

theorem Decoder.defined_of_load {d : Decoder} (h : d.state = .load) : d.defined = d.eraseOut := by
  simp [Decoder.defined, h, Decoder.eraseOut]

theorem Decoder.defined_eraseOut {d : Decoder} (h : d.state = .load) :
    d.eraseOut.defined = d.defined := by
  obtain ⟨st⟩ := d
  cases h
  rfl

/-- A body that neither reads nor writes the output, and stays in LOAD. -/
theorem definedDecResult_of_eraseOut {body : Decoder → Except ResultCode (Word × Decoder)}
    {d : Decoder} (hs : d.state = .load)
    (hb : body d.eraseOut = (body d).map fun r => (r.1, r.2.eraseOut))
    (hstate : ∀ v d', body d = .ok (v, d') → d'.state = .load) :
    definedDecResult (body d) = definedDecResult (body d.defined) := by
  rw [Decoder.defined_of_load hs, hb]
  cases hx : body d with
  | error rc => rfl
  | ok r => simp [definedDecResult, Except.map, Decoder.defined_eraseOut (hstate r.1 r.2 hx)]

theorem decAddCpBody_defined (c : Config) (a : Word) {d : Decoder} (hs : d.state = .load) :
    definedDecResult (decAddCpBody c a d) = definedDecResult (decAddCpBody c a d.defined) := by
  refine definedDecResult_of_eraseOut hs ?_ fun v d' h => ?_
  · simp only [decAddCpBody, except_map_bind, except_map_map]
    rfl
  · obtain ⟨-, cp, rfl⟩ := decAddCpBody_ok h
    exact hs

theorem decAddBitBody_defined (c : Config) (a : Word) {d : Decoder} (hs : d.state = .load) :
    definedDecResult (decAddBitBody c a d) = definedDecResult (decAddBitBody c a d.defined) := by
  refine definedDecResult_of_eraseOut hs ?_ fun v d' h => ?_
  · simp only [decAddBitBody, except_map_bind, except_map_map]
    rfl
  · obtain ⟨-, b, rfl⟩ := decAddBitBody_ok h
    exact hs

theorem decCommitBody_defined (c : Config) {d : Decoder} (hs : d.state = .load) :
    definedDecResult (decCommitBody c d) = definedDecResult (decCommitBody c d.defined) := by
  refine definedDecResult_of_eraseOut hs ?_ fun v d' h => ?_
  · simp only [decCommitBody, apply_ite (Except.map fun r : Word × Decoder => (r.1, r.2.eraseOut)),
      except_map_bind]
    rfl
  · obtain ⟨-, -, k, n, -, -, -, rfl⟩ := decCommitBody_ok h
    exact hs

theorem decSetPadBody_defined (a : Word) {d : Decoder} (hs : d.state = .load) :
    definedDecResult (decSetPadBody a d) = definedDecResult (decSetPadBody a d.defined) := by
  refine definedDecResult_of_eraseOut hs ?_ fun v d' h => ?_
  · simp only [decSetPadBody, except_map_map]
    rfl
  · obtain ⟨p, rfl⟩ := decSetPadBody_ok h
    exact hs

theorem decPushByteBody_defined (c : Config) (a : Word) {d : Decoder} (hs : d.state = .load) :
    definedDecResult (decPushByteBody c a d) = definedDecResult (decPushByteBody c a d.defined) := by
  refine definedDecResult_of_eraseOut hs ?_ fun v d' h => ?_
  · simp only [decPushByteBody, except_map_bind, except_map_map]
    rfl
  · obtain ⟨-, b, rfl⟩ := decPushByteBody_ok h
    exact hs

/-- The walk reads the nodes and the symbols alone (47_bitstream_walker R312). -/
theorem walk_eraseOut (c : Config) (d : Decoder) (bits : List Bit) (k : Nat) (out : List CP)
    (cnt : Nat) : walk c d.eraseOut bits k out cnt = walk c d bits k out cnt := by
  induction bits generalizing k out cnt with
  | nil => rfl
  | cons b bits ih =>
    simp only [walk, ih]
    rfl

theorem decRunBody_defined (c : Config) {d : Decoder} (hs : d.state = .load) :
    definedDecResult (decRunBody c d) = definedDecResult (decRunBody c d.defined) := by
  have h : decRunBody c d.eraseOut = decRunBody c d := by
    simp only [decRunBody, walk_eraseOut]
    rfl
  rw [Decoder.defined_of_load hs, h]

theorem Decoder.defined_of_done {d : Decoder} (h : d.state ∈ [DecState.done]) : d.defined = d := by
  simp [Decoder.defined, List.mem_singleton.mp h]

/-- The decoder's table is defined in LOAD and DONE (10_state R63). -/
theorem Decoder.defined_sym {d : Decoder} (h : d.state ∈ [DecState.load, DecState.done]) :
    d.defined.sym = d.sym := by
  simp only [List.mem_cons, List.not_mem_nil, or_false] at h
  obtain h | h := h <;> simp [Decoder.defined, h]

/-- DEC_RUN's table checks read defined fields (47_bitstream_walker R310). -/
theorem execDecRun_defined (s : State) :
    definedOutcome (exec .decRun s) = definedOutcome (exec .decRun s.defined) := by
  change definedOutcome (execDecRun s) = definedOutcome (execDecRun s.defined)
  have hc : (s.defined.dec.state = .load ∧ tableIncomplete s.defined.dec = true) ↔
      (s.dec.state = .load ∧ tableIncomplete s.dec = true) := by
    rw [State.defined_dec, Decoder.defined_state]
    refine and_congr_right fun hs => ?_
    rw [Decoder.defined_of_load hs]
    rfl
  simp only [execDecRun, hc, definedOutcome_next, Host.Outcome.next.injEq]
  split
  · exact defined_raise _ _ _ s
  · exact defined_decCommand fun hs => decRunBody_defined _ (List.mem_singleton.mp hs)

/-! ### A step -/

/-- What ENC_START does depends on ARG0 and on the unit's state alone. -/
theorem execEncStart_defined (s : State) :
    definedOutcome (exec .encStart s) = definedOutcome (exec .encStart s.defined) := by
  change definedOutcome (execEncStart s) = definedOutcome (execEncStart s.defined)
  unfold execEncStart
  rw [State.defined_arg0]
  cases modeOperand s.arg0 with
  | ok m => simp
  | error rc => exact congrArg Host.Outcome.next (defined_raise _ _ _ s)

/-- No command's defined effect depends on an undefined field. -/
theorem exec_defined (i : Instr) (s : State) :
    definedOutcome (exec i s) = definedOutcome (exec i s.defined) := by
  have next {t u : State} (h : t.defined = u.defined) :
      definedOutcome (.next t) = definedOutcome (.next u) := congrArg Host.Outcome.next h
  cases i with
  | nop => exact next (by simp)
  | sreset => exact next rfl
  | encStart => exact execEncStart_defined s
  | encPush =>
    exact next (defined_encCommand fun hs => encPushBody_defined _ _ (List.mem_singleton.mp hs))
  | encEnd =>
    exact next (defined_encCommand fun hs => encEndBody_defined _ (List.mem_singleton.mp hs))
  | encBuild =>
    exact next (defined_encCommand fun hs => encBuildBody_defined (List.mem_singleton.mp hs))
  | encAssign =>
    exact next (defined_encCommand fun hs => encAssignBody_defined _ (List.mem_singleton.mp hs))
  | encPack =>
    exact next (defined_encCommand fun hs => encPackBody_defined _ (List.mem_singleton.mp hs))
  | encRdNsym | encRdSymlen | encRdSymcp | encRdFreq | encRdNstream =>
    refine next (defined_encReadout fun hs => ?_)
    obtain ⟨hy, hf, hst⟩ := Encoder.defined_of_tableStates hs
    simp only [hy, hf, hst]
  | encRdCodelen | encRdCodebit =>
    refine next (defined_encReadout fun hs => ?_)
    obtain ⟨hy, hk⟩ := Encoder.defined_of_codeStates hs
    simp only [hy, hk]
  | encRdNbytes | encRdByte | encRdPad =>
    refine next (defined_encReadout fun hs => ?_)
    obtain ⟨hb, hp⟩ := Encoder.defined_of_packed hs
    simp only [hb, hp]
  | decStart => exact next (by simp)
  | decAddCp =>
    exact next (defined_decCommand fun hs => decAddCpBody_defined _ _ (List.mem_singleton.mp hs))
  | decAddBit =>
    exact next (defined_decCommand fun hs => decAddBitBody_defined _ _ (List.mem_singleton.mp hs))
  | decCommit =>
    exact next (defined_decCommand fun hs => decCommitBody_defined _ (List.mem_singleton.mp hs))
  | decSetPad =>
    exact next (defined_decCommand fun hs => decSetPadBody_defined _ (List.mem_singleton.mp hs))
  | decPushByte =>
    exact next (defined_decCommand fun hs => decPushByteBody_defined _ _ (List.mem_singleton.mp hs))
  | decRun => exact execDecRun_defined s
  | decRdNsym | decRdOutlen | decRdOutcp =>
    exact next (defined_decReadout fun hs => by rw [Decoder.defined_of_done hs])
  | decRdNent => exact next (defined_decReadout fun hs => by rw [Decoder.defined_sym hs])

theorem engineStep_defined (s : State) :
    definedOutcome (engineStep s) = definedOutcome (engineStep s.defined) := by
  cases hp : s.pending with
  | none => simp [engineStep_of_idle hp, engineStep_of_idle (s := s.defined) hp]
  | some w =>
    cases hd : decode w with
    | error r => simp [engineStep_of_illegal hp hd, engineStep_of_illegal (s := s.defined) hp hd]
    | ok i =>
      rw [engineStep_of_decode hp hd, engineStep_of_decode (s := s.defined) hp hd,
        definedOutcome_finishCommand, definedOutcome_finishCommand, exec_defined]

/-- STATUS shows the units' states, which are always defined (10_state R36). -/
theorem registerValue_defined (s : State) (off : Nat) :
    registerValue s.defined off = registerValue s off := by
  have hst : s.defined.status = s.status := by
    simp only [State.status, State.defined_enc, State.defined_dec, Encoder.defined_state,
      Decoder.defined_state]
    rfl
  unfold registerValue
  rw [hst]
  rfl

theorem writeRegister_defined (s : State) (off : Nat) (v : Word) :
    (writeRegister s off v).defined = writeRegister s.defined off v := by
  unfold writeRegister
  split <;> rfl

/-- An access sees the parameters alone, so two effects with the same defined part are seen alike. -/
theorem hostAccess_defined (addr width : Nat) (s : State)
    {effect effect' : Nat → Host.Outcome State Fault Refusal}
    (h : ∀ off, definedOutcome (effect off) = definedOutcome (effect' off)) :
    definedOutcome (hostAccess addr width s effect) =
      definedOutcome (hostAccess addr width s.defined effect') := by
  unfold hostAccess
  rw [State.defined_cfg]
  cases windowOffset s.cfg addr with
  | none => rfl
  | some off =>
    dsimp only
    split_ifs
    exacts [rfl, rfl, h off]

theorem hostStep_defined (op : HostOp) (s : State) :
    definedOutcome (hostStep op s) = definedOutcome (hostStep op s.defined) := by
  cases op with
  | read addr width =>
    refine hostAccess_defined addr width s fun off => ?_
    rw [State.defined_busy, registerValue_defined]
    split
    · rfl
    · simp
  | write addr width v =>
    refine hostAccess_defined addr width s fun off => ?_
    rw [State.defined_busy]
    split
    · rfl
    · simp [← writeRegister_defined]

/-- A step and the step from the defined part of the state have the same defined part. -/
theorem step_defined (s : State) : definedOutcome (step s) = definedOutcome (step s.defined) := by
  unfold step nextStep
  rw [State.defined_moves]
  cases s.moves with
  | nil => exact engineStep_defined s
  | cons m rest =>
    cases m with
    | engine => exact engineStep_defined (s.setMoves rest)
    | host op => exact hostStep_defined op (s.setMoves rest)
    | reset => rfl

/-! ### The statement -/

/-- Settles O60: both steps have the defined part of the step from the common defined state. -/
theorem undefinedFieldsAreUnobservable : Obligations.UndefinedFieldsAreUnobservable := by
  intro s t h
  rw [sameDefined_iff]
  calc definedOutcome (step s)
    _ = definedOutcome (step s.defined) := step_defined s
    _ = definedOutcome (step t.defined) := by rw [h]
    _ = definedOutcome (step t) := (step_defined t).symm

end Sys2Proof.Machine
end

section
/-! PROOFS, part 7. The register window (20_memory R70 to R74): what an access answers by its
address, its width and its offset, and what an access of the proper form does. -/

namespace Sys2Proof.Machine

open Sys2Proof.Claims

/-! ### The form of an access (20_memory R70, R72, R73) -/

/-- A host operation that comes first is the step (30_encoding R115). -/
@[simp] theorem step_host (s : State) (op : HostOp) (rest : List Move) :
    step (s.setMoves (.host op :: rest)) = hostStep op (s.setMoves rest) := rfl

theorem windowOffset_outside (c : Config) {addr : Nat}
    (h : addr < c.hufBase ∨ c.hufBase + 256 ≤ addr) : windowOffset c addr = none :=
  if_neg (by omega)

section
variable (s : State) (effect : Nat → Host.Outcome State Fault Refusal)

theorem hostAccess_outside (width : Nat) {addr : Nat}
    (h : addr < s.cfg.hufBase ∨ s.cfg.hufBase + 256 ≤ addr) :
    hostAccess addr width s effect = .fault .outsideWindow := by
  simp only [hostAccess, windowOffset_outside s.cfg h]

theorem hostAccess_width {off width : Nat} (ho : off < 256) (hw : width ≠ 4) :
    hostAccess (s.cfg.hufBase + off) width s effect = .refused .accessWidth := by
  simp only [hostAccess, windowOffset_base s.cfg ho, if_pos hw]

theorem hostAccess_misaligned {off : Nat} (ho : off < 256) (ha : off % 4 ≠ 0) :
    hostAccess (s.cfg.hufBase + off) 4 s effect = .refused .misaligned := by
  simp only [hostAccess, windowOffset_base s.cfg ho, ne_eq, not_true_eq_false, if_false, if_pos ha]

theorem hostAccess_aligned {off : Nat} (ho : off < 256) (ha : off % 4 = 0) :
    hostAccess (s.cfg.hufBase + off) 4 s effect = effect off := by
  simp only [hostAccess, windowOffset_base s.cfg ho, ne_eq, ha, not_true_eq_false, if_false]

end

/-! ### The effect of an access (20_memory R71) -/

@[simp] theorem registerValue_setMoves (s : State) (m : List Move) (off : Nat) :
    registerValue (s.setMoves m) off = registerValue s off := rfl

@[simp] theorem writeRegister_setMoves (s : State) (m : List Move) (off : Nat) (v : Word) :
    writeRegister (s.setMoves m) off v = (writeRegister s off v).setMoves m := by
  unfold writeRegister
  split <;> rfl

@[simp] theorem State.setMoves_busy (s : State) (m : List Move) : (s.setMoves m).busy = s.busy := rfl

theorem State.busy_of_idle {s : State} (hp : s.pending = none) : s.busy = false := by
  simp only [State.busy, hp, Option.isSome_none]

/-- Every offset past the registers reads 0 (20_memory R74). -/
theorem registerValue_reserved (s : State) {off : Nat} (h : 0x40 ≤ off) :
    registerValue s off = 0 := by
  unfold registerValue
  split
  case h_17 => rfl
  all_goals omega

/-- A write acts on CMD, ARG0 and ARG1 alone (20_memory R74). -/
theorem writeRegister_ignored (s : State) (v : Word) {off : Nat} (hc : off ≠ 0x04) (h0 : off ≠ 0x08)
    (h1 : off ≠ 0x0C) : writeRegister s off v = s := by
  unfold writeRegister
  split
  case h_4 => rfl
  all_goals contradiction

/-- An aligned read gives the register's value when the block is idle or the register may be read
while it is not (30_encoding R116). -/
theorem readGives_registerValue {s : State} {rest : List Move} {off : Nat}
    (hb : s.pending = none ∨ readableWhileBusy off = true) (ho : off < 256) (ha : off % 4 = 0) :
    readGives s rest off (registerValue s off) := by
  have hfree : (s.busy && !readableWhileBusy off) = false := by
    obtain hp | hr := hb
    · rw [State.busy_of_idle hp, Bool.false_and]
    · rw [hr, Bool.not_true, Bool.and_false]
  calc step (s.setMoves (.host (.read (s.cfg.hufBase + off) 4) :: rest))
    _ = hostRead (s.cfg.hufBase + off) 4 (s.setMoves rest) := step_host ..
    _ = _ := hostAccess_aligned (s.setMoves rest) _ ho ha
    _ = .next ((s.setMoves rest).setObs (s.obs ++ [registerValue s off])) := by simp [hfree]

/-- An aligned write to an idle block leaves what `writeRegister` says. -/
theorem writeGives_writeRegister {s : State} {rest : List Move} {off : Nat} (v : Word)
    (hp : s.pending = none) (ho : off < 256) (ha : off % 4 = 0) :
    writeGives s rest off v (writeRegister s off v) :=
  calc step (s.setMoves (.host (.write (s.cfg.hufBase + off) 4 v) :: rest))
    _ = hostWrite (s.cfg.hufBase + off) 4 v (s.setMoves rest) := step_host ..
    _ = _ := hostAccess_aligned (s.setMoves rest) _ ho ha
    _ = .next ((writeRegister s off v).setMoves rest) := by simp [State.busy_of_idle hp]

/-! ### The statements -/

/-- Settles O8: an access of the proper form reads `registerValue` and leaves `writeRegister`, whose
value at each register's offset is the register map's. -/
theorem idleHostAccessesFollowTheRegisterMap : Obligations.IdleHostAccessesFollowTheRegisterMap := by
  intro s rest hp
  have hread (off : Nat) (h : off < 256 ∧ off % 4 = 0 := by decide) :
      readGives s rest off (registerValue s off) := readGives_registerValue (.inl hp) h.1 h.2
  have hwrite (off : Nat) (v : Word) (h : off < 256 ∧ off % 4 = 0 := by decide) :
      writeGives s rest off v (writeRegister s off v) := writeGives_writeRegister v hp h.1 h.2
  refine ⟨hread 0x00, hread 0x04, hread 0x08, hread 0x0C, hread 0x10, hread 0x14, hread 0x18,
    hread 0x1C, hread 0x20, hread 0x24, hread 0x28, hread 0x2C, hread 0x30, hread 0x34, hread 0x38,
    hread 0x3C, fun off hl hu ha => ?reserved,
    fun v => ⟨hwrite 0x04 v, hwrite 0x08 v, hwrite 0x0C v⟩, fun off v hu ha hc h0 h1 => ?ignored⟩
  case reserved => exact registerValue_reserved s hl ▸ hread off ⟨by omega, ha⟩
  case ignored =>
    have h := hwrite off v ⟨by omega, ha⟩
    rwa [writeRegister_ignored s v hc h0 h1] at h

/-- Settles O10: the width is checked before the alignment, and a read and a write are
the same access with different effects. -/
theorem undefinedAccessesAreRefused : Obligations.UndefinedAccessesAreRefused :=
  fun s rest _ _ ho =>
    ⟨fun _ hw => ⟨hostAccess_width (s.setMoves rest) _ ho hw,
      hostAccess_width (s.setMoves rest) _ ho hw⟩,
    fun ha => ⟨hostAccess_misaligned (s.setMoves rest) _ ho ha,
      hostAccess_misaligned (s.setMoves rest) _ ho ha⟩⟩

/-- Settles O11: the window is checked before width, alignment and effect. -/
theorem accessOutsideTheWindowFaults : Obligations.AccessOutsideTheWindowFaults :=
  fun s rest _ width _ h =>
    ⟨hostAccess_outside (s.setMoves rest) _ width h, hostAccess_outside (s.setMoves rest) _ width h⟩

end Sys2Proof.Machine
end

section
/-! PROOFS, part 8. The command word (30_encoding R100 to R106): which words are legal, that a
command and its word determine each other, and the engine step on a legal and on an illegal word. -/

namespace Sys2Proof.Machine

open Sys2Proof.Claims

/-! ### Decoding and encoding (30_encoding R103, R106) -/

/-- A word names a command exactly when its reserved bits are 0 and its opcode is the command's row
of the opcode map (30_encoding R105). -/
theorem decode_eq_ok_iff {w : Word} {i : Instr} :
    decode w = .ok i ↔
      w.extractLsb' 8 24 = 0 ∧ opcodeTable.lookup (w.extractLsb' 0 8) = some i := by
  unfold decode
  split
  · next hrsv =>
    unfold decodeOpcode
    cases opcodeTable.lookup (w.extractLsb' 0 8) <;> simp [hrsv]
  · next hrsv => exact ⟨fun h => (nomatch h), fun h => absurd h.1 hrsv⟩

/-- The word of each row is its opcode below 24 reserved bits that are 0 (30_encoding R100). -/
theorem encode_of_mem_opcodeTable :
    ∀ row ∈ opcodeTable, (0 : BitVec 24) ++ row.1 = encode row.2 := by decide

/-- A lookup answers from a row of its key. -/
theorem mem_of_lookup_eq_some {α β : Type} [BEq α] [LawfulBEq α] {l : List (α × β)} {k : α} {v : β}
    (h : l.lookup k = some v) : (k, v) ∈ l := by
  obtain ⟨l₁, l₂, rfl, -⟩ := List.lookup_eq_some_iff.mp h
  simp

/-- Every command's word is legal and names it. -/
@[simp] theorem decode_encode (i : Instr) : decode (encode i) = .ok i := by
  cases i <;> rfl

/-- A legal word is the word of the command it names: nothing of it is lost in decoding. -/
theorem eq_encode_of_decode {w : Word} {i : Instr} (h : decode w = .ok i) : w = encode i := by
  obtain ⟨hrsv, hop⟩ := decode_eq_ok_iff.mp h
  calc w
    _ = w.extractLsb' 8 24 ++ w.extractLsb' 0 8 :=
      (BitVec.extractLsb'_append_extractLsb' (w := 24) (len := 8)).symm
    _ = (0 : BitVec 24) ++ w.extractLsb' 0 8 := by rw [hrsv]
    _ = encode i := encode_of_mem_opcodeTable _ (mem_of_lookup_eq_some hop)

/-! ### The legal words (30_encoding R105) -/

/-- The opcodes of the map, in five ranges (30_encoding R103). -/
theorem opcodeTable_opcodes :
    opcodeTable.map (fun row => row.1.toNat) =
      List.range' 0x00 2 ++ List.range' 0x10 6 ++ List.range' 0x20 10 ++ List.range' 0x30 7 ++
        List.range' 0x40 4 := rfl

/-- An opcode has a row exactly when it lies in none of the ranges R105 lists as illegal. -/
theorem lookup_isSome_iff_not_unlisted (op : BitVec 8) :
    (opcodeTable.lookup op).isSome ↔ ¬ unlistedOpcode op.toNat :=
  calc (opcodeTable.lookup op).isSome = true
    _ ↔ op.toNat ∈ opcodeTable.map (fun row => row.1.toNat) := by
      simp only [List.lookup_isSome_iff, List.mem_map, beq_iff_eq, BitVec.toNat_inj,
        eq_comm (a := op)]
    _ ↔ ¬ unlistedOpcode op.toNat := by
      have hop := op.isLt
      simp only [opcodeTable_opcodes, List.mem_append, List.mem_range'_1, unlistedOpcode]
      omega

/-- The legal words (30_encoding R105). -/
theorem exists_decode_iff (w : Word) :
    (∃ i, decode w = .ok i) ↔
      w.extractLsb' 8 24 = 0 ∧ ¬ unlistedOpcode (w.extractLsb' 0 8).toNat := by
  simp only [decode_eq_ok_iff, exists_and_left, ← lookup_isSome_iff_not_unlisted,
    Option.isSome_iff_exists]

/-! ### The engine step (40_control R130, R134) -/

/-- With no move left, the step is the engine's (30_encoding R117). -/
theorem step_of_moves_nil {s : State} (hm : s.moves = []) : step s = engineStep s := by
  simp only [step, nextStep, hm]

/-- An engine move that comes first is the step (30_encoding R115). -/
theorem step_of_engine_move {s : State} {rest : List Move} (hm : s.moves = .engine :: rest) :
    step s = engineStep (s.setMoves rest) := by
  simp only [step, nextStep, hm, takeMove]

/-- Every command answers a next state (40_control R130). -/
theorem exec_next (i : Instr) (s : State) : ∃ t, exec i s = .next t := by
  cases i with
  | encStart =>
    change ∃ t, execEncStart s = .next t
    unfold execEncStart
    split <;> exact ⟨_, rfl⟩
  | _ => exact ⟨_, rfl⟩

/-- The engine step on a legal word: the command, then PENDING cleared. -/
theorem engineStep_legal {s : State} {w : Word} {i : Instr} (hp : s.pending = some w)
    (hd : decode w = .ok i) :
    ∃ t, exec i s = .next t ∧ engineStep s = .next (t.setPending none) := by
  obtain ⟨t, hx⟩ := exec_next i s
  exact ⟨t, hx, by rw [engineStep_of_decode hp hd, hx, finishCommand_next]⟩

/-! ### The statements -/

/-- Settles O3: a command's word decodes to it, and a legal word is put together again from its
reserved bits and the opcode of its row. -/
theorem decodeIsTheExactInverseOfEncode : Obligations.DecodeIsTheExactInverseOfEncode :=
  fun _ i _ => ⟨eq_encode_of_decode, fun h => h ▸ decode_encode i⟩

/-- Settles O4: the opcode map and the ranges of R105 share the 256 opcodes between them, and the
engine's answer to an illegal word writes the report alone. -/
theorem legalWordsAreTheListedOpcodes : Obligations.LegalWordsAreTheListedOpcodes := by
  refine fun w => ⟨exists_decode_iff w, fun hillegal s rest hp hm => ?_⟩
  cases hd : decode w with
  | ok i => exact absurd ⟨i, hd⟩ hillegal
  | error r =>
    have hstep : step s = .next ((illegal (s.setMoves rest)).setPending none) :=
      (step_of_engine_move hm).trans (engineStep_of_illegal (s := s.setMoves rest) hp hd)
    exact ⟨_, hstep, rfl, rfl, rfl, rfl⟩

/-- Settles O2: each of these words is the word its command encodes to, and the two others fail one
check of R105 each. -/
theorem writtenWordsDecodeToTheirCommands : Obligations.WrittenWordsDecodeToTheirCommands :=
  ⟨decode_encode .nop, decode_encode .encPush, decode_encode .encBuild, decode_encode .encAssign,
    decode_encode .encPack, decode_encode .encRdCodebit, decode_encode .decCommit,
    decode_encode .decRun, decode_encode .decRdNent, rfl, rfl⟩

/-- Settles O5: with a legal word pending, the engine's step is the command's meaning. -/
theorem engineStepRunsTheDecodedCommand : Obligations.EngineStepRunsTheDecodedCommand :=
  fun s _ _ hp hd =>
    ⟨fun hm => step_of_moves_nil hm ▸ engineStep_legal hp hd,
      fun rest hm => step_of_engine_move hm ▸ engineStep_legal (s := s.setMoves rest) hp hd⟩

end Sys2Proof.Machine
end

section
/-! PROOFS, part 9. Commands that succeed (30_encoding R103, 40_control R131): each reports its own
stage, was in its states, and moves its unit by the table. -/

namespace Sys2Proof.Machine

open Sys2Proof.Claims
open Sys2Proof.Laws.UnitRange (unitOf)

/-! ### The rows of the table (30_encoding R103) -/

/-- What the row of an encoder command promises when it succeeds: its stage, its next state, its
effect on ENC_ERR, and that it was in its states. -/
def encoderRow (i : Instr) (s t : State) : Prop :=
  t.lastStage = stageOf i ∧ t.enc.state = encoderNext i s.enc.state ∧
    t.encErr = (if i = .encStart then 0 else s.encErr) ∧
    ∀ states, encoderStates i = some states → s.enc.state ∈ states

/-- What the row of a decoder command promises when it succeeds. -/
def decoderRow (i : Instr) (s t : State) : Prop :=
  t.lastStage = stageOf i ∧ t.dec.state = decoderNext i s.dec.state ∧
    t.decErr = (if i = .decStart then 0 else s.decErr) ∧
    ∀ states, decoderStates i = some states → s.dec.state ∈ states

/-- The opcode range of the encoder holds its rows alone (30_encoding R104). -/
theorem isEncoderCommand_iff (i : Instr) : isEncoderCommand i ↔ unitOf i = some .encoder := by
  cases i <;> simp [isEncoderCommand, encode, unitOf]

/-- The opcode range of the decoder holds its rows alone (30_encoding R104). -/
theorem isDecoderCommand_iff (i : Instr) : isDecoderCommand i ↔ unitOf i = some .decoder := by
  cases i <;> simp [isDecoderCommand, encode, unitOf]

/-! ### Success of a command's frame (40_control R131 to R133) -/

/-- `raise` reports a failure code. -/
theorem raise_lastRc_ne_ok {u : CmdUnit} {rc : ResultCode} {st : Stage} {s : State}
    (h : rc.IsFailure) : (raise u rc st s).lastRc ≠ .ok := h.1

/-- An encoder command that reports success found its gate open and its body succeeding. -/
theorem encCommand_success {st : Stage} {states : List EncState}
    {body : Encoder → Except ResultCode (Word × Encoder)} {s : State}
    (hf : FailsProperly (body s.enc)) (hok : (encCommand st states body s).lastRc = .ok) :
    s.enc.state ∈ states ∧ ∃ v e, body s.enc = .ok (v, e) ∧
      encCommand st states body s = complete st v (s.setEnc e) := by
  obtain h | ⟨-, rc, hb, he⟩ | ⟨-, he⟩ := encCommand_cases st states body s
  · exact h
  · exact absurd (he ▸ hok) (raise_lastRc_ne_ok (hf rc hb))
  · exact absurd (he ▸ hok) (raise_lastRc_ne_ok isFailure_eState)

/-- A decoder command that reports success found its gate open and its body succeeding. -/
theorem decCommand_success {st : Stage} {states : List DecState}
    {body : Decoder → Except ResultCode (Word × Decoder)} {s : State}
    (hf : FailsProperly (body s.dec)) (hok : (decCommand st states body s).lastRc = .ok) :
    s.dec.state ∈ states ∧ ∃ v d, body s.dec = .ok (v, d) ∧
      decCommand st states body s = complete st v (s.setDec d) := by
  obtain h | ⟨-, rc, hb, he⟩ | ⟨-, he⟩ := decCommand_cases st states body s
  · exact h
  · exact absurd (he ▸ hok) (raise_lastRc_ne_ok (hf rc hb))
  · exact absurd (he ▸ hok) (raise_lastRc_ne_ok isFailure_eState)

/-- A gated encoder command keeps its row when its body's success leads to the row's next state. -/
theorem encCommand_row {i : Instr} {st : Stage} {states : List EncState}
    {body : Encoder → Except ResultCode (Word × Encoder)} {s : State}
    (hok : (encCommand st states body s).lastRc = .ok) (hst : stageOf i = st)
    (hgate : encoderStates i = some states) (hf : FailsProperly (body s.enc))
    (hnext : s.enc.state ∈ states → ∀ v e, body s.enc = .ok (v, e) →
      e.state = encoderNext i s.enc.state) :
    encoderRow i s (encCommand st states body s) := by
  obtain ⟨hs, v, e, hb, he⟩ := encCommand_success hf hok
  have hi : i ≠ .encStart := by rintro rfl; cases hgate
  rw [he]
  exact ⟨hst.symm, hnext hs v e hb, (if_neg hi).symm, fun _ h => Option.some.inj (hgate ▸ h) ▸ hs⟩

/-- A gated decoder command keeps its row when its body's success leads to the row's next state. -/
theorem decCommand_row {i : Instr} {st : Stage} {states : List DecState}
    {body : Decoder → Except ResultCode (Word × Decoder)} {s : State}
    (hok : (decCommand st states body s).lastRc = .ok) (hst : stageOf i = st)
    (hgate : decoderStates i = some states) (hf : FailsProperly (body s.dec))
    (hnext : s.dec.state ∈ states → ∀ v d, body s.dec = .ok (v, d) →
      d.state = decoderNext i s.dec.state) :
    decoderRow i s (decCommand st states body s) := by
  obtain ⟨hs, v, d, hb, he⟩ := decCommand_success hf hok
  have hi : i ≠ .decStart := by rintro rfl; cases hgate
  rw [he]
  exact ⟨hst.symm, hnext hs v d hb, (if_neg hi).symm, fun _ h => Option.some.inj (hgate ▸ h) ▸ hs⟩

/-- An encoder readout leaves its unit's state (45_encoder_readout R240). -/
theorem encReadout_row {i : Instr} {states : List EncState}
    {read : Encoder → Except ResultCode Word} {s : State}
    (hok : (encReadout states read s).lastRc = .ok) (hst : stageOf i = .readout)
    (hgate : encoderStates i = some states) (hnext : encoderNext i s.enc.state = s.enc.state)
    (hf : FailsProperly (read s.enc)) : encoderRow i s (encReadout states read s) :=
  encCommand_row hok hst hgate (hf.map _) fun _ v e hb => by
    obtain ⟨a, -, ha⟩ := except_map_ok.mp hb
    cases ha
    exact hnext.symm

/-- A decoder readout leaves its unit's state (48_decoder_readout R344). -/
theorem decReadout_row {i : Instr} {states : List DecState}
    {read : Decoder → Except ResultCode Word} {s : State}
    (hok : (decReadout states read s).lastRc = .ok) (hst : stageOf i = .readout)
    (hgate : decoderStates i = some states) (hnext : decoderNext i s.dec.state = s.dec.state)
    (hf : FailsProperly (read s.dec)) : decoderRow i s (decReadout states read s) :=
  decCommand_row hok hst hgate (hf.map _) fun _ v d hb => by
    obtain ⟨a, -, ha⟩ := except_map_ok.mp hb
    cases ha
    exact hnext.symm

/-! ### The commands -/

/-- Every encoder command that succeeds keeps its row. -/
theorem exec_encoderRow {i : Instr} {s t : State} (hu : unitOf i = some .encoder)
    (h : exec i s = .next t) (hok : t.lastRc = .ok) : encoderRow i s t := by
  cases i with
  | encStart =>
    obtain ⟨m, -, rfl⟩ | ⟨rc, hm, rfl⟩ := exec_encStart_cases h
    · exact ⟨rfl, rfl, rfl, fun _ hg => nomatch hg⟩
    · exact absurd hok (raise_lastRc_ne_ok (modeOperand_failsProperly _ rc hm))
  | encPush =>
    cases h
    refine encCommand_row hok rfl rfl (encPushBody_failsProperly _ _ _) fun _ v e hb => ?_
    obtain ⟨cp, hp⟩ := encPushBody_ok hb
    obtain ⟨hs, -⟩ := pushCodePoint_frame hp
    exact hs
  | encEnd =>
    cases h
    refine encCommand_row hok rfl rfl (encEndBody_failsProperly _ _) fun _ v e hb => ?_
    obtain ⟨e₁, -, rfl⟩ := encEndBody_ok hb
    rfl
  | encBuild =>
    cases h
    refine encCommand_row hok rfl rfl (failsProperly_ok _) fun _ v e hb => ?_
    cases encBuildBody_ok hb
    rfl
  | encAssign =>
    cases h
    refine encCommand_row hok rfl rfl (encAssignBody_failsProperly _ _) fun _ v e hb => ?_
    obtain ⟨-, rfl⟩ := encAssignBody_ok hb
    rfl
  | encPack =>
    cases h
    refine encCommand_row hok rfl rfl (encPackBody_failsProperly _ _) fun _ v e hb => ?_
    obtain ⟨-, rfl⟩ := encPackBody_ok hb
    rfl
  | encRdNsym | encRdNstream | encRdNbytes | encRdPad =>
    cases h; exact encReadout_row hok rfl rfl rfl (failsProperly_ok _)
  | encRdSymlen | encRdFreq | encRdCodelen | encRdByte =>
    cases h; exact encReadout_row hok rfl rfl rfl ((indexOperand_failsProperly _ _).map _)
  | encRdSymcp =>
    cases h
    exact encReadout_row hok rfl rfl rfl ((indexOperand_failsProperly _ _).bind fun _ =>
      indexOperand_failsProperly _ _)
  | encRdCodebit =>
    cases h
    exact encReadout_row hok rfl rfl rfl ((indexOperand_failsProperly _ _).bind fun _ =>
      (indexOperand_failsProperly _ _).map _)
  | _ => cases hu

/-- Every decoder command that succeeds keeps its row. -/
theorem exec_decoderRow {i : Instr} {s t : State} (hu : unitOf i = some .decoder)
    (h : exec i s = .next t) (hok : t.lastRc = .ok) : decoderRow i s t := by
  cases i with
  | decStart => cases h; exact ⟨rfl, rfl, rfl, fun _ hg => nomatch hg⟩
  | decAddCp =>
    cases h
    refine decCommand_row hok rfl rfl (decAddCpBody_failsProperly _ _ _) fun _ v d hb => ?_
    obtain ⟨-, cp, rfl⟩ := decAddCpBody_ok hb
    rfl
  | decAddBit =>
    cases h
    refine decCommand_row hok rfl rfl (decAddBitBody_failsProperly _ _ _) fun _ v d hb => ?_
    obtain ⟨-, b, rfl⟩ := decAddBitBody_ok hb
    rfl
  | decCommit =>
    cases h
    refine decCommand_row hok rfl rfl (decCommitBody_failsProperly _ _) fun _ v d hb => ?_
    obtain ⟨-, -, k, n, -, -, -, rfl⟩ := decCommitBody_ok hb
    rfl
  | decSetPad =>
    cases h
    refine decCommand_row hok rfl rfl (decSetPadBody_failsProperly _ _) fun _ v d hb => ?_
    obtain ⟨p, rfl⟩ := decSetPadBody_ok hb
    rfl
  | decPushByte =>
    cases h
    refine decCommand_row hok rfl rfl (decPushByteBody_failsProperly _ _ _) fun _ v d hb => ?_
    obtain ⟨-, b, rfl⟩ := decPushByteBody_ok hb
    rfl
  | decRun =>
    obtain rfl | rfl := exec_decRun_cases h
    · exact absurd hok (raise_lastRc_ne_ok isFailure_eTable)
    · refine decCommand_row hok rfl rfl (decRunBody_failsProperly _ _) fun _ v d hb => ?_
      obtain ⟨out, cnt, -, rfl⟩ := decRunBody_ok hb
      rfl
  | decRdNsym | decRdOutlen | decRdNent =>
    cases h; exact decReadout_row hok rfl rfl rfl (failsProperly_ok _)
  | decRdOutcp => cases h; exact decReadout_row hok rfl rfl rfl (indexOperand_failsProperly _ _)
  | _ => cases hu

/-- The commands of no unit report their stage (40_control R135, R136). -/
theorem exec_control_lastStage {i : Instr} {s t : State} (hu : unitOf i = none)
    (h : exec i s = .next t) : t.lastStage = stageOf i := by
  cases i with
  | nop | sreset => cases h; rfl
  | _ => cases hu

/-! ### The statement -/

/-- Settles O21: a control command completes, and a unit command keeps its row, by its unit. -/
theorem successfulCommandsMoveTheUnitByTheTable :
    Obligations.SuccessfulCommandsMoveTheUnitByTheTable := by
  intro i s t h hok
  rw [isEncoderCommand_iff, isDecoderCommand_iff]
  cases hu : unitOf i with
  | none => exact ⟨exec_control_lastStage hu h, fun hn => (nomatch hn), fun hn => nomatch hn⟩
  | some u =>
    cases u with
    | encoder =>
      obtain ⟨hstage, hrow⟩ := exec_encoderRow hu h hok
      exact ⟨hstage, fun _ => hrow, fun hn => nomatch hn⟩
    | decoder =>
      obtain ⟨hstage, hrow⟩ := exec_decoderRow hu h hok
      exact ⟨hstage, fun hn => (nomatch hn), fun _ => hrow⟩

end Sys2Proof.Machine
end

section
/-! PROOFS, part 10. The register window while a command is pending (30_encoding R116): what may be
read is read as from an idle block, and every other access is refused. -/

namespace Sys2Proof.Machine

open Sys2Proof.Claims

theorem State.busy_of_some {s : State} {w : Word} (hp : s.pending = some w) : s.busy = true := by
  simp only [State.busy, hp, Option.isSome_some]

/-- The offsets R116 does not list. -/
theorem readableWhileBusy_eq_false {off : Nat} (h0 : off ≠ 0x00) (hst : off ≠ 0x14)
    (hc : ¬ (0x20 ≤ off ∧ off ≤ 0x3C)) : readableWhileBusy off = false :=
  decide_eq_false (by omega)

section
variable {s : State} {rest : List Move} {off : Nat} {w : Word}

/-- A busy block refuses an aligned read of an offset R116 does not list. -/
theorem step_read_of_busy (hp : s.pending = some w) (hr : readableWhileBusy off = false)
    (ho : off < 256) (ha : off % 4 = 0) :
    step (s.setMoves (.host (.read (s.cfg.hufBase + off) 4) :: rest)) = .refused .busyViolation :=
  calc step (s.setMoves (.host (.read (s.cfg.hufBase + off) 4) :: rest))
    _ = hostRead (s.cfg.hufBase + off) 4 (s.setMoves rest) := step_host ..
    _ = _ := hostAccess_aligned (s.setMoves rest) _ ho ha
    _ = .refused .busyViolation := by simp [State.busy_of_some hp, hr]

/-- A busy block refuses every aligned write. -/
theorem step_write_of_busy (v : Word) (hp : s.pending = some w) (ho : off < 256)
    (ha : off % 4 = 0) :
    step (s.setMoves (.host (.write (s.cfg.hufBase + off) 4 v) :: rest)) =
      .refused .busyViolation :=
  calc step (s.setMoves (.host (.write (s.cfg.hufBase + off) 4 v) :: rest))
    _ = hostWrite (s.cfg.hufBase + off) 4 v (s.setMoves rest) := step_host ..
    _ = _ := hostAccess_aligned (s.setMoves rest) _ ho ha
    _ = .refused .busyViolation := by simp [State.busy_of_some hp]

end

/-! ### The statement -/

/-- Settles O9: the listed offsets are read whether or not the block is busy, and the port checks
BUSY before the effect of any other access. -/
theorem busyHostAccessesAreLimited : Obligations.BusyHostAccessesAreLimited := by
  intro s rest w hp
  have hread (off : Nat) (h : readableWhileBusy off = true ∧ off < 256 ∧ off % 4 = 0 := by decide) :
      readGives s rest off (registerValue s off) := readGives_registerValue (.inr h.1) h.2.1 h.2.2
  exact ⟨hread 0x14, hread 0x00, hread 0x20, hread 0x24, hread 0x28, hread 0x2C, hread 0x30,
    hread 0x34, hread 0x38, hread 0x3C,
    fun off ho ha h0 hst hc =>
      step_read_of_busy hp (readableWhileBusy_eq_false h0 hst hc) (by omega) ha,
    fun off v ho ha => step_write_of_busy v hp (by omega) ha⟩

end Sys2Proof.Machine
end

section
/-! PROOFS, part 11. The control rules every command keeps (40_control R130 to R137): the frame of a
command, the state gate, the illegal word, NOP, SRESET, and what may change an operand. -/

namespace Sys2Proof.Machine

open Sys2Proof.Claims

/-! ### The frame of a command (40_control R131, R132) -/

theorem raise_hostSideKept (u : CmdUnit) (rc : ResultCode) (st : Stage) (s : State) :
    hostSideKept s (raise u rc st s) :=
  ⟨raise_cfg u rc st s, raise_arg0 u rc st s, raise_arg1 u rc st s, raise_pending u rc st s,
    raise_moves u rc st s, raise_obs u rc st s⟩

theorem encCommand_hostSideKept (st : Stage) (states : List EncState)
    (body : Encoder → Except ResultCode (Word × Encoder)) (s : State) :
    hostSideKept s (encCommand st states body s) := by
  obtain ⟨-, v, e, -, he⟩ | ⟨-, rc, -, he⟩ | ⟨-, he⟩ := encCommand_cases st states body s <;>
    rw [he]
  · exact ⟨rfl, rfl, rfl, rfl, rfl, rfl⟩
  · exact raise_hostSideKept _ rc st s
  · exact raise_hostSideKept _ .eState st s

theorem decCommand_hostSideKept (st : Stage) (states : List DecState)
    (body : Decoder → Except ResultCode (Word × Decoder)) (s : State) :
    hostSideKept s (decCommand st states body s) := by
  obtain ⟨-, v, d, -, he⟩ | ⟨-, rc, -, he⟩ | ⟨-, he⟩ := decCommand_cases st states body s <;>
    rw [he]
  · exact ⟨rfl, rfl, rfl, rfl, rfl, rfl⟩
  · exact raise_hostSideKept _ rc st s
  · exact raise_hostSideKept _ .eState st s

/-- A command writes the units, the report and the ERR registers alone. -/
theorem exec_hostSideKept {i : Instr} {s t : State} (h : exec i s = .next t) :
    hostSideKept s t := by
  cases i with
  | nop | sreset | decStart => cases h; exact ⟨rfl, rfl, rfl, rfl, rfl, rfl⟩
  | encStart =>
    obtain ⟨m, -, rfl⟩ | ⟨rc, -, rfl⟩ := exec_encStart_cases h
    · exact ⟨rfl, rfl, rfl, rfl, rfl, rfl⟩
    · exact raise_hostSideKept _ rc _ s
  | encPush | encEnd | encBuild | encAssign | encPack | encRdNsym | encRdSymlen | encRdSymcp
    | encRdFreq | encRdCodelen | encRdCodebit | encRdNstream | encRdNbytes | encRdByte
    | encRdPad => cases h; exact encCommand_hostSideKept _ _ _ s
  | decRun =>
    obtain rfl | rfl := exec_decRun_cases h
    · exact raise_hostSideKept _ _ _ s
    · exact decCommand_hostSideKept _ _ _ s
  | decAddCp | decAddBit | decCommit | decSetPad | decPushByte | decRdNsym | decRdOutlen
    | decRdOutcp | decRdNent => cases h; exact decCommand_hostSideKept _ _ _ s

/-- The registers read outside the units, the report and the ERR registers (20_memory R71). -/
theorem registerValue_of_hostSideKept {s t : State} (h : hostSideKept s t) {off : Nat}
    (hresult : off ≠ 0x10) (hstatus : off ≠ 0x14) (hencErr : off ≠ 0x18) (hdecErr : off ≠ 0x1C) :
    registerValue t off = registerValue s off := by
  obtain ⟨hcfg, harg0, harg1, -⟩ := h
  unfold registerValue
  split
  case h_5 | h_6 | h_7 | h_8 => contradiction
  all_goals simp only [hcfg, harg0, harg1]

/-! ### The state gate (40_control R133) -/

/-- The ERR value of R132 puts the stage's code above the eight bits of the result code. -/
theorem errWord_eq_errValue (st : Stage) (rc : ResultCode) : errWord st rc = errValue st rc := by
  have hst := st.code.isLt
  have hrc := rc.code.isLt
  have hhigh : (0#20 ++ st.code).toNat = st.code.toNat :=
    (BitVec.toNat_append _ _).trans (by simp)
  apply BitVec.eq_of_toNat_eq
  calc (errWord st rc).toNat
    _ = (0#20 ++ st.code).toNat <<< 8 ||| rc.code.toNat := BitVec.toNat_append _ _
    _ = st.code.toNat * 256 + rc.code.toNat := by
      rw [hhigh, ← Nat.shiftLeft_add_eq_or_of_lt hrc, Nat.shiftLeft_eq]
    _ = (errValue st rc).toNat := (Nat.mod_eq_of_lt (by omega)).symm

theorem raise_failsEnc (rc : ResultCode) (st : Stage) (s : State) :
    failsEnc s (.next (raise .encoder rc st s)) rc st :=
  ⟨_, rfl, ⟨rfl, rfl, rfl⟩, by simp, by simp [errWord_eq_errValue], by simp, by simp,
    raise_hostSideKept _ rc st s⟩

theorem raise_failsDec (rc : ResultCode) (st : Stage) (s : State) :
    failsDec s (.next (raise .decoder rc st s)) rc st :=
  ⟨_, rfl, ⟨rfl, rfl, rfl⟩, by simp, by simp [errWord_eq_errValue], by simp, by simp,
    raise_hostSideKept _ rc st s⟩

/-- An encoder command with a states column is a gated command of its stage (30_encoding R103). -/
theorem exec_of_encoderStates {i : Instr} {states : List EncState}
    (hg : encoderStates i = some states) (s : State) :
    ∃ body, exec i s = .next (encCommand (stageOf i) states body s) := by
  cases i <;> cases hg <;> exact ⟨_, rfl⟩

/-- A decoder command outside its states column raises E_STATE; the table checks of DEC_RUN come
after its gate (47_bitstream_walker R310). -/
theorem exec_outside_decoderStates {i : Instr} {states : List DecState} {s : State}
    (hg : decoderStates i = some states) (hs : s.dec.state ∉ states) :
    exec i s = .next (raise .decoder .eState (stageOf i) s) := by
  cases i with
  | decRun =>
    cases hg
    have hload : ¬ (s.dec.state = .load ∧ tableIncomplete s.dec) :=
      fun h => hs (List.mem_singleton.mpr h.1)
    calc exec .decRun s
      _ = .next (decCommand .decode [.load] (decRunBody s.cfg) s) :=
        congrArg Host.Outcome.next (if_neg hload)
      _ = _ := congrArg Host.Outcome.next (decCommand_gate hs)
  | decAddCp | decAddBit | decCommit | decSetPad | decPushByte | decRdNsym | decRdOutlen
    | decRdOutcp | decRdNent => cases hg; exact congrArg Host.Outcome.next (decCommand_gate hs)
  | _ => cases hg

/-! ### The illegal word (40_control R134) -/

/-- The engine's answer to a word R105 lists as illegal. -/
theorem step_of_illegal_word {s : State} {w : Word} {rest : List Move} (hp : s.pending = some w)
    (hw : w.extractLsb' 8 24 ≠ 0 ∨ unlistedOpcode (w.extractLsb' 0 8).toNat)
    (hm : s.moves = .engine :: rest) :
    step s = .next ((illegal (s.setMoves rest)).setPending none) := by
  cases hd : decode w with
  | ok i =>
    obtain ⟨hrsv, hlisted⟩ := (exists_decode_iff w).mp ⟨i, hd⟩
    exact absurd hw (not_or.mpr ⟨not_not.mpr hrsv, hlisted⟩)
  | error r =>
    exact (step_of_engine_move hm).trans (engineStep_of_illegal (s := s.setMoves rest) hp hd)

/-! ### What may change an operand (40_control R137) -/

theorem engineStep_operands {s t : State} (h : engineStep s = .next t) :
    t.arg0 = s.arg0 ∧ t.arg1 = s.arg1 := by
  obtain ⟨i, u, hx, rfl⟩ | rfl | rfl := engineStep_next_cases h
  · obtain ⟨-, harg0, harg1, -⟩ := exec_hostSideKept hx
    exact ⟨harg0, harg1⟩
  · exact ⟨rfl, rfl⟩
  · exact ⟨rfl, rfl⟩

/-- The address of an offset in the window (20_memory R70). -/
theorem eq_base_add_of_windowOffset {c : Config} {addr off : Nat}
    (h : windowOffset c addr = some off) : addr = c.hufBase + off := by
  unfold windowOffset at h
  split at h
  · cases h; omega
  · cases h

theorem writeRegister_arg0 (s : State) (v : Word) {off : Nat} (h : off ≠ 0x08) :
    (writeRegister s off v).arg0 = s.arg0 := by
  unfold writeRegister
  split
  case h_2 => contradiction
  all_goals rfl

theorem writeRegister_arg1 (s : State) (v : Word) {off : Nat} (h : off ≠ 0x0C) :
    (writeRegister s off v).arg1 = s.arg1 := by
  unfold writeRegister
  split
  case h_3 => contradiction
  all_goals rfl

/-- A host move changes ARG0 and ARG1 only as a write of the register at its own address. -/
theorem hostStep_operands {op : HostOp} {s t : State} (h : hostStep op s = .next t) :
    (t.arg0 ≠ s.arg0 → ∃ v, op = .write (s.cfg.hufBase + 0x08) 4 v) ∧
    (t.arg1 ≠ s.arg1 → ∃ v, op = .write (s.cfg.hufBase + 0x0C) 4 v) := by
  cases op with
  | read addr width =>
    obtain ⟨off, -, -, -, h⟩ := hostAccess_next h
    split at h
    · cases h
    · cases h; exact ⟨fun hne => absurd rfl hne, fun hne => absurd rfl hne⟩
  | write addr width v =>
    obtain ⟨off, hoff, rfl, -, heffect⟩ := hostAccess_next h
    obtain rfl := eq_base_add_of_windowOffset hoff
    split at heffect
    · cases heffect
    · cases heffect
      refine ⟨fun hne => ⟨v, ?_⟩, fun hne => ⟨v, ?_⟩⟩
      · rw [not_imp_comm.mp (writeRegister_arg0 s v) hne]
      · rw [not_imp_comm.mp (writeRegister_arg1 s v) hne]

/-! ### The statements -/

/-- Settles O20: the gate comes before everything else a command checks. -/
theorem outOfStateCommandsFailWithEState : Obligations.OutOfStateCommandsFailWithEState := by
  refine fun i s => ⟨fun states hg hs => ?encoder, fun states hg hs => ?decoder⟩
  case encoder =>
    obtain ⟨body, hx⟩ := exec_of_encoderStates hg s
    rw [hx, encCommand_gate hs]
    exact raise_failsEnc _ _ s
  case decoder =>
    rw [exec_outside_decoderStates hg hs]
    exact raise_failsDec _ _ s

/-- Settles O15: every command answers, within its frame, and the other registers are read from what
the frame keeps. -/
theorem everyCommandCompletesWithinItsFrame : Obligations.EveryCommandCompletesWithinItsFrame := by
  intro i s
  obtain ⟨t, hx⟩ := exec_next i s
  have hkept := exec_hostSideKept hx
  exact ⟨t, hx, hkept, fun _ => registerValue_of_hostSideKept hkept⟩

/-- Settles O14: the frame of a command holds both operands, so a step that changes one is no engine
step. -/
theorem onlyHostWritesAndResetChangeOperands :
    Obligations.OnlyHostWritesAndResetChangeOperands := by
  refine ⟨fun i s t hx => ?command, fun s t h => ?step⟩
  case command =>
    obtain ⟨-, harg0, harg1, -⟩ := exec_hostSideKept hx
    exact ⟨harg0, harg1⟩
  case step =>
    obtain ⟨-, hs⟩ | ⟨rest, -, hs⟩ | ⟨op, rest, hm, hs⟩ | ⟨rest, hm, -⟩ := step_cases s
    · obtain ⟨harg0, harg1⟩ := engineStep_operands (hs ▸ h)
      exact ⟨fun hne => absurd harg0 hne, fun hne => absurd harg1 hne⟩
    · obtain ⟨harg0, harg1⟩ := engineStep_operands (hs ▸ h)
      exact ⟨fun hne => absurd harg0 hne, fun hne => absurd harg1 hne⟩
    · obtain ⟨harg0, harg1⟩ := hostStep_operands (hs ▸ h)
      refine ⟨fun hne => .inl ?_, fun hne => .inl ?_⟩
      · obtain ⟨v, rfl⟩ := harg0 hne
        exact ⟨v, rest, hm⟩
      · obtain ⟨v, rfl⟩ := harg1 hne
        exact ⟨v, rest, hm⟩
    · exact ⟨fun _ => .inr ⟨rest, hm⟩, fun _ => .inr ⟨rest, hm⟩⟩

/-- Settles O6: an illegal word writes the report alone, and 0xFF has an unlisted opcode. -/
theorem illegalWordReportsAndTouchesNoUnit : Obligations.IllegalWordReportsAndTouchesNoUnit := by
  have hFF : unlistedOpcode ((0xFF : Word).extractLsb' 0 8).toNat := by
    unfold unlistedOpcode; decide
  exact ⟨fun _ _ _ hp hw hm => step_of_illegal_word hp hw hm, rfl, rfl,
    _, step_of_illegal_word rfl (.inr hFF) rfl, by decide, rfl⟩

/-- Settles O22: NOP is `complete` with result 0. -/
theorem nopOnlyCompletes : Obligations.NopOnlyCompletes := fun _ => rfl

/-- Settles O23: SRESET completes with both units idled, and its frame is every command's. -/
theorem sresetIdlesBothUnits : Obligations.SresetIdlesBothUnits := fun s =>
  have hx : exec .sreset s = .next (complete .control 0 (idleUnits s)) := rfl
  ⟨_, hx, rfl, rfl, rfl, rfl, ⟨rfl, rfl, rfl⟩, exec_hostSideKept hx⟩

end Sys2Proof.Machine
end

section
/-! PROOFS, part 12. The commands of the frequency analyser (41_frequency_analyzer R150 to R155):
what EMIT does to the table and the stream, when a code point fits, and what each command answers. -/

namespace Sys2Proof.Machine

open Sys2Proof.Claims

/-! ### Distinct elements in order of first occurrence -/

section
variable {α : Type} [BEq α] [LawfulBEq α] {l : List α} {a : α}

theorem eraseDups_concat_of_mem (h : a ∈ l) : (l ++ [a]).eraseDups = l.eraseDups := by
  simp [List.eraseDups_append, List.removeAll, h]

theorem eraseDups_concat_of_notMem (h : a ∉ l) : (l ++ [a]).eraseDups = l.eraseDups ++ [a] := by
  simp [List.eraseDups_append, List.removeAll, h, List.eraseDups_cons]

theorem nodup_eraseDups (l : List α) : l.eraseDups.Nodup := by
  induction l using List.reverseRecOn with
  | nil => exact List.nodup_nil
  | append_singleton l a ih =>
    by_cases h : a ∈ l
    · rwa [eraseDups_concat_of_mem h]
    · rw [eraseDups_concat_of_notMem h, ← List.concat_eq_append]
      exact ih.concat (List.mem_eraseDups.not.mpr h)

theorem eraseDups_of_nodup (h : l.Nodup) : l.eraseDups = l := by
  induction l using List.reverseRecOn with
  | nil => rfl
  | append_singleton l a ih =>
    rw [← List.concat_eq_append, List.nodup_concat] at h
    obtain ⟨ha, hl⟩ := h
    rw [eraseDups_concat_of_notMem ha, ih hl]

/-- Duplicates removed early do not change which elements are first occurrences later. -/
theorem eraseDups_eraseDups_append (l k : List α) :
    (l.eraseDups ++ k).eraseDups = (l ++ k).eraseDups := by
  rw [List.eraseDups_append, List.eraseDups_append, eraseDups_of_nodup (nodup_eraseDups l)]
  simp [List.removeAll]

theorem eraseDups_length_le_append (l k : List α) :
    l.eraseDups.length ≤ (l ++ k).eraseDups.length := by
  rw [List.eraseDups_append, List.length_append]
  exact Nat.le_add_right _ _

end

/-! ### EMIT (41_frequency_analyzer R151) -/

section
variable {c : Config} {y : Symbol} {e : Encoder}

theorem emit_of_full_stream (hs : e.stream.length = c.streamCap) :
    emit c y e = .error .eCapacity := if_pos hs

theorem emit_of_full_table (hs : e.stream.length ≠ c.streamCap) (hy : y ∉ e.sym)
    (hn : e.sym.length = c.nSym) : emit c y e = .error .eCapacity := by
  simp only [emit, if_neg hs, List.idxOf?_eq_none_iff.mpr hy, if_pos hn]

theorem emit_of_new (hs : e.stream.length ≠ c.streamCap) (hy : y ∉ e.sym)
    (hn : e.sym.length ≠ c.nSym) :
    emit c y e = .ok
      (countOccurrence e.sym.length { e with sym := e.sym ++ [y], freq := e.freq ++ [0] }) := by
  simp only [emit, if_neg hs, List.idxOf?_eq_none_iff.mpr hy, if_neg hn]

theorem emit_of_known (hs : e.stream.length ≠ c.streamCap) (hy : y ∈ e.sym) :
    ∃ i, e.sym.idxOf? y = some i ∧ emit c y e = .ok (countOccurrence i e) := by
  cases hi : e.sym.idxOf? y with
  | none => exact absurd hy (List.idxOf?_eq_none_iff.mp hi)
  | some i => exact ⟨i, rfl, by simp only [emit, if_neg hs, hi]⟩

end

/-- The count of a new symbol, appended as 0 and counted once, is 1. -/
theorem modify_append_zero (l : List Nat) : (l ++ [0]).modify l.length (· + 1) = l ++ [1] := by
  simp [List.modify_eq_set]

/-- Settles O25: each case of EMIT, the counts being aligned with the symbols. -/
theorem emitAddsOneOccurrence : Obligations.EmitAddsOneOccurrence := by
  refine fun c y e ha => ⟨emit_of_full_stream, emit_of_full_table, fun hs hy hn => ?new,
    fun hs hy => ?known⟩
  case new =>
    simp only [emit_of_new hs hy hn, countOccurrence, ← ha, modify_append_zero]
  case known =>
    obtain ⟨i, hi, he⟩ := emit_of_known hs hy
    obtain ⟨hlt, hget, hfirst⟩ := List.idxOf?_eq_some_iff.mp hi
    refine ⟨i, hlt, by rw [List.getElem?_eq_getElem hlt, hget], fun j hj => ?_, ?_⟩
    · rw [List.getElem?_eq_getElem (hj.trans hlt)]
      exact fun h => hfirst j hj (Option.some.inj h)
    · rw [he, countOccurrence, List.modify_eq_set]
      rfl

/-! ### What emission does -/

/-- `e'` is `e` with the symbols `ys` emitted: the stream gains them, the table their first
occurrences, and the later stages' fields are kept (41_frequency_analyzer R151). -/
structure Emitted (e : Encoder) (ys : List Symbol) (e' : Encoder) : Prop where
  symbols : streamSymbols e' = streamSymbols e ++ ys
  sym : e'.sym = symbolsAfter e ys
  frame : e' = { e with sym := e'.sym, freq := e'.freq, stream := e'.stream, word := e'.word }

/-- The symbol the pending run is, if there is one (41_frequency_analyzer R153). -/
def pendingRun (e : Encoder) : List Symbol := if e.word = [] then [] else [e.word]

@[simp] theorem flatten_pendingRun (e : Encoder) : (pendingRun e).flatten = e.word := by
  unfold pendingRun
  split
  · next h => exact h.symm
  · simp

theorem heldText_eq (e : Encoder) : e.heldText = (streamSymbols e).flatten ++ e.word := rfl

theorem symbolsAfter_nil {e : Encoder} (h : e.sym.Nodup) : symbolsAfter e [] = e.sym := by
  rw [symbolsAfter, List.append_nil, eraseDups_of_nodup h]

theorem symbolsAfter_of_mem {e : Encoder} {y : Symbol} (h : e.sym.Nodup) (hy : y ∈ e.sym) :
    symbolsAfter e [y] = e.sym := by
  rw [symbolsAfter, eraseDups_concat_of_mem hy, eraseDups_of_nodup h]

theorem symbolsAfter_of_notMem {e : Encoder} {y : Symbol} (h : e.sym.Nodup) (hy : y ∉ e.sym) :
    symbolsAfter e [y] = e.sym ++ [y] := by
  rw [symbolsAfter, eraseDups_concat_of_notMem hy, eraseDups_of_nodup h]

theorem Emitted.refl {e : Encoder} (h : e.sym.Nodup) : Emitted e [] e :=
  ⟨(List.append_nil _).symm, (symbolsAfter_nil h).symm, rfl⟩

theorem Emitted.symbolsAfter_eq {e e' : Encoder} {ys : List Symbol} (h : Emitted e ys e')
    (zs : List Symbol) : symbolsAfter e' zs = symbolsAfter e (ys ++ zs) := by
  simp only [symbolsAfter, h.sym, eraseDups_eraseDups_append, List.append_assoc]

theorem Emitted.trans {e e' e'' : Encoder} {ys zs : List Symbol} (h : Emitted e ys e')
    (h' : Emitted e' zs e'') : Emitted e (ys ++ zs) e'' where
  symbols := by rw [h'.symbols, h.symbols, List.append_assoc]
  sym := by rw [h'.sym, h.symbolsAfter_eq]
  frame := by rw [h'.frame, h.frame]

/-- What is emitted does not depend on what the pending run becomes. -/
theorem Emitted.setWord {e e' : Encoder} {ys : List Symbol} (h : Emitted e ys e')
    (w : List CP) : Emitted e ys { e' with word := w } where
  symbols := h.symbols
  sym := h.sym
  frame := congrArg (fun x : Encoder => { x with word := w }) h.frame

theorem Emitted.stream_length {e e' : Encoder} {ys : List Symbol} (h : Emitted e ys e') :
    e'.stream.length = e.stream.length + ys.length := by
  have := congrArg List.length h.symbols
  simpa [streamSymbols] using this

/-- EMIT emits its symbol. -/
theorem emit_emitted {c : Config} {y : Symbol} {e e' : Encoder} (ht : e.TableOk)
    (h : emit c y e = .ok e') : Emitted e [y] e' := by
  obtain ⟨-, ⟨i, hi, rfl⟩ | ⟨hi, -, rfl⟩⟩ := emit_ok h
  · obtain ⟨hlt, hget, -⟩ := List.idxOf?_eq_some_iff.mp hi
    refine ⟨?_, (symbolsAfter_of_mem ht.nodup (hget ▸ List.getElem_mem hlt)).symm, rfl⟩
    simp [streamSymbols, countOccurrence, hlt, hget]
  · have hy : y ∉ e.sym := List.idxOf?_eq_none_iff.mp hi
    refine ⟨?_, (symbolsAfter_of_notMem ht.nodup hy).symm, rfl⟩
    have hold : ∀ p ∈ e.stream, (e.sym ++ [y]).getD p [] = e.sym.getD p [] := fun p hp =>
      List.getD_append _ _ _ _ (ht.bounded p hp)
    simp only [streamSymbols, countOccurrence, List.map_append, List.map_congr_left hold]
    simp

/-- The pending run is emitted, if there is one. -/
theorem emitWord_emitted {c : Config} {e e' : Encoder} (ht : e.TableOk)
    (h : emitWord c e = .ok e') : Emitted e (pendingRun e) e' := by
  unfold pendingRun
  obtain ⟨hw, rfl⟩ | ⟨hw, e₁, he, rfl⟩ := emitWord_ok h
  · rw [if_pos hw]; exact .refl ht.nodup
  · rw [if_neg hw]; exact (emit_emitted ht he).setWord []

/-! ### A code point joins the pending run, or ends it (41_frequency_analyzer R153) -/

/-- The code point lengthens the pending run; any other one is a symbol of its own. -/
def joinsRun (k : AlphaClass) (e : Encoder) (cp : CP) : Prop :=
  e.mode = .word ∧ isAlpha k cp = true

section
variable {k : AlphaClass} {c : Config} {e : Encoder} {cp : CP}

theorem emittedBy_of_joinsRun (h : joinsRun k e cp) : emittedBy k e cp = [] := by
  obtain ⟨hm, ha⟩ := h
  simp [emittedBy, hm, ha]

theorem wordAfter_of_joinsRun (h : joinsRun k e cp) : wordAfter k e cp = e.word ++ [cp] := by
  obtain ⟨hm, ha⟩ := h
  simp [wordAfter, hm, ha]

theorem pushCodePoint_of_joinsRun (h : joinsRun c.alpha e cp) :
    pushCodePoint c cp e =
      (appendCapped c.wMax cp e.word).map fun w => { e with word := w } := by
  obtain ⟨hm, ha⟩ := h
  simp [pushCodePoint_eq, hm, ha]

/-- Outside the pending run a code point is of CHAR mode, where no run is pending, or not
alphabetic. -/
theorem mode_cases_of_not_joinsRun (h : ¬ joinsRun k e cp) (hc : e.mode = .char → e.word = []) :
    (e.mode = .char ∧ e.word = []) ∨ (e.mode = .word ∧ isAlpha k cp = false) := by
  cases hm : e.mode with
  | char => exact .inl ⟨rfl, hc hm⟩
  | word => exact .inr ⟨rfl, Bool.eq_false_of_not_eq_true fun ha => h ⟨hm, ha⟩⟩

theorem emittedBy_of_not_joinsRun (h : ¬ joinsRun k e cp) (hc : e.mode = .char → e.word = []) :
    emittedBy k e cp = pendingRun e ++ [[cp]] := by
  unfold emittedBy pendingRun
  obtain ⟨hm, hw⟩ | ⟨hm, ha⟩ := mode_cases_of_not_joinsRun h hc
  · simp [hm, hw]
  · by_cases hw : e.word = [] <;> simp [hm, ha, hw]

theorem wordAfter_of_not_joinsRun (h : ¬ joinsRun k e cp) (hc : e.mode = .char → e.word = []) :
    wordAfter k e cp = [] := by
  unfold wordAfter
  obtain ⟨hm, hw⟩ | ⟨hm, ha⟩ := mode_cases_of_not_joinsRun h hc
  · simp [hm, hw]
  · simp [hm, ha]

/-- A code point outside the pending run emits the run, then itself. -/
theorem pushCodePoint_of_not_joinsRun (h : ¬ joinsRun c.alpha e cp)
    (hc : e.mode = .char → e.word = []) :
    pushCodePoint c cp e = (emitWord c e).bind (emit c [cp]) := by
  rw [pushCodePoint_eq]
  obtain ⟨hm, hw⟩ | ⟨hm, ha⟩ := mode_cases_of_not_joinsRun h hc
  · simp [hm, hw, emitWord, Except.bind]
  · simp [hm, ha]

/-- No code point of the text is lost between the stream and the pending run. -/
theorem flatten_emittedBy_append_wordAfter (hc : e.mode = .char → e.word = []) :
    (emittedBy k e cp).flatten ++ wordAfter k e cp = e.word ++ [cp] := by
  by_cases h : joinsRun k e cp
  · simp [emittedBy_of_joinsRun h, wordAfter_of_joinsRun h]
  · simp [emittedBy_of_not_joinsRun h hc, wordAfter_of_not_joinsRun h hc]

/-- A code point emits its symbols and leaves its pending run. -/
theorem pushCodePoint_emitted {e' : Encoder} (ht : e.TableOk) (hc : e.mode = .char → e.word = [])
    (h : pushCodePoint c cp e = .ok e') :
    Emitted e (emittedBy c.alpha e cp) e' ∧ e'.word = wordAfter c.alpha e cp := by
  by_cases hj : joinsRun c.alpha e cp
  · rw [pushCodePoint_of_joinsRun hj] at h
    obtain ⟨w, hw, rfl⟩ := except_map_ok.mp h
    obtain ⟨-, rfl⟩ := appendCapped_ok hw
    rw [emittedBy_of_joinsRun hj, wordAfter_of_joinsRun hj]
    exact ⟨(Emitted.refl ht.nodup).setWord _, rfl⟩
  · rw [pushCodePoint_of_not_joinsRun hj hc] at h
    obtain ⟨e₁, hw, he⟩ := except_bind_ok.mp h
    obtain ⟨-, -, hword, -⟩ := emitWord_frame hw
    obtain ⟨-, -, hword', -⟩ := emit_frame he
    rw [emittedBy_of_not_joinsRun hj hc, wordAfter_of_not_joinsRun hj hc]
    exact ⟨(emitWord_emitted ht hw).trans (emit_emitted (emitWord_tableOk hw ht) he),
      hword'.trans hword⟩

theorem heldText_of_push {e' : Encoder} (hc : e.mode = .char → e.word = [])
    (he : Emitted e (emittedBy k e cp) e') (hw : e'.word = wordAfter k e cp) :
    e'.heldText = e.heldText ++ [cp] := by
  rw [heldText_eq, heldText_eq, he.symbols, hw, List.flatten_append, List.append_assoc,
    flatten_emittedBy_append_wordAfter hc, List.append_assoc]

end

/-! ### When emission fits (41_frequency_analyzer R151, R154) -/

/-- `x` succeeds exactly when `p` holds, and fails for want of room otherwise. -/
def FitsIff {α : Type} (p : Prop) (x : Except ResultCode α) : Prop :=
  (p → ∃ v, x = .ok v) ∧ (¬ p → x = .error .eCapacity)

section
variable {α β : Type} {p q : Prop} {x : Except ResultCode α}

theorem fitsIff_of_ok {v : α} (hp : p) (h : x = .ok v) : FitsIff p x :=
  ⟨fun _ => ⟨v, h⟩, fun hn => absurd hp hn⟩

theorem fitsIff_of_error (hp : ¬ p) (h : x = .error .eCapacity) : FitsIff p x :=
  ⟨fun h' => absurd h' hp, fun _ => h⟩

theorem FitsIff.of_ok {v : α} (h : FitsIff p x) (hv : x = .ok v) : p := by
  by_contra hp
  rw [h.2 hp] at hv
  cases hv

theorem FitsIff.map (h : FitsIff p x) (f : α → β) : FitsIff p (x.map f) := by
  by_cases hp : p
  · obtain ⟨v, rfl⟩ := h.1 hp
    exact fitsIff_of_ok hp rfl
  · rw [h.2 hp]
    exact fitsIff_of_error hp rfl

/-- A sequence fits exactly when its end does, where the end fits only if its beginning does. -/
theorem FitsIff.bind {f : α → Except ResultCode β} (h : FitsIff p x) (hqp : q → p)
    (hf : ∀ v, x = .ok v → FitsIff q (f v)) : FitsIff q (x.bind f) := by
  by_cases hp : p
  · obtain ⟨v, rfl⟩ := h.1 hp
    exact hf v rfl
  · rw [h.2 hp]
    exact fitsIff_of_error (mt hqp hp) rfl

theorem FitsIff.congr (h : FitsIff p x) (hpq : p ↔ q) : FitsIff q x := by rwa [← hpq]

end

theorem symbolsFit_nil {c : Config} {e : Encoder} (h : e.sym.Nodup) :
    symbolsFit c e [] ↔ e.stream.length ≤ c.streamCap ∧ e.sym.length ≤ c.nSym := by
  rw [symbolsFit, symbolsAfter_nil h]
  rfl

theorem symbolsFit_singleton_of_mem {c : Config} {e : Encoder} {y : Symbol} (h : e.sym.Nodup)
    (hy : y ∈ e.sym) :
    symbolsFit c e [y] ↔ e.stream.length + 1 ≤ c.streamCap ∧ e.sym.length ≤ c.nSym := by
  rw [symbolsFit, symbolsAfter_of_mem h hy, List.length_singleton]

theorem symbolsFit_singleton_of_notMem {c : Config} {e : Encoder} {y : Symbol} (h : e.sym.Nodup)
    (hy : y ∉ e.sym) :
    symbolsFit c e [y] ↔ e.stream.length + 1 ≤ c.streamCap ∧ e.sym.length + 1 ≤ c.nSym := by
  rw [symbolsFit, symbolsAfter_of_notMem h hy, List.length_singleton, List.length_append,
    List.length_singleton]

/-- What fits after some symbols is what fits together with them. -/
theorem Emitted.symbolsFit_iff {c : Config} {e e' : Encoder} {ys : List Symbol}
    (h : Emitted e ys e') (zs : List Symbol) : symbolsFit c e' zs ↔ symbolsFit c e (ys ++ zs) := by
  rw [symbolsFit, symbolsFit, h.stream_length, h.symbolsAfter_eq, List.length_append, Nat.add_assoc]

theorem symbolsFit_of_append {c : Config} {e : Encoder} {ys zs : List Symbol}
    (h : symbolsFit c e (ys ++ zs)) : symbolsFit c e ys := by
  obtain ⟨hstream, htable⟩ := h
  have hlen : (symbolsAfter e ys).length ≤ (symbolsAfter e (ys ++ zs)).length := by
    rw [symbolsAfter, symbolsAfter, ← List.append_assoc]
    exact eraseDups_length_le_append _ _
  rw [List.length_append] at hstream
  exact ⟨by omega, by omega⟩

section
variable {c : Config} {e : Encoder} (ht : e.TableOk) (hf : symbolsFit c e [])
include ht hf

/-- EMIT fails exactly when its symbol does not fit. -/
theorem emit_fitsIff (y : Symbol) : FitsIff (symbolsFit c e [y]) (emit c y e) := by
  obtain ⟨hstream, htable⟩ := (symbolsFit_nil ht.nodup).mp hf
  by_cases hy : y ∈ e.sym
  · rw [symbolsFit_singleton_of_mem ht.nodup hy]
    by_cases hs : e.stream.length = c.streamCap
    · exact fitsIff_of_error (by omega) (emit_of_full_stream hs)
    · obtain ⟨i, -, he⟩ := emit_of_known hs hy
      exact fitsIff_of_ok (by omega) he
  · rw [symbolsFit_singleton_of_notMem ht.nodup hy]
    by_cases hs : e.stream.length = c.streamCap
    · exact fitsIff_of_error (by omega) (emit_of_full_stream hs)
    · by_cases hn : e.sym.length = c.nSym
      · exact fitsIff_of_error (by omega) (emit_of_full_table hs hy hn)
      · exact fitsIff_of_ok (by omega) (emit_of_new hs hy hn)

theorem emitWord_fitsIff : FitsIff (symbolsFit c e (pendingRun e)) (emitWord c e) := by
  rw [emitWord_eq, pendingRun]
  by_cases hw : e.word = []
  · rw [if_pos hw, if_pos hw]
    exact fitsIff_of_ok hf rfl
  · rw [if_neg hw, if_neg hw]
    exact (emit_fitsIff ht hf e.word).map _

/-- ENC_PUSH's code point fails exactly when it does not fit. -/
theorem pushCodePoint_fitsIff {cp : CP} (hc : e.mode = .char → e.word = [])
    (hw : e.word.length ≤ c.wMax) : FitsIff (pushFits c e cp) (pushCodePoint c cp e) := by
  by_cases hj : joinsRun c.alpha e cp
  · rw [pushCodePoint_of_joinsRun hj, pushFits, emittedBy_of_joinsRun hj, wordAfter_of_joinsRun hj,
      List.length_append, List.length_singleton]
    refine FitsIff.map ?_ _
    by_cases hl : e.word.length = c.wMax
    · exact fitsIff_of_error (fun ⟨_, hle⟩ => by omega) (if_pos hl)
    · exact fitsIff_of_ok ⟨hf, by omega⟩ (if_neg hl)
  · rw [pushCodePoint_of_not_joinsRun hj hc, pushFits, emittedBy_of_not_joinsRun hj hc,
      wordAfter_of_not_joinsRun hj hc]
    have hrun := emitWord_fitsIff ht hf
    refine (hrun.bind symbolsFit_of_append fun e₁ he₁ => ?_).congr
      (and_iff_left (Nat.zero_le _)).symm
    have hem := emitWord_emitted ht he₁
    have hf₁ : symbolsFit c e₁ [] := by
      rw [hem.symbolsFit_iff, List.append_nil]
      exact hrun.of_ok he₁
    exact (emit_fitsIff (emitWord_tableOk he₁ ht) hf₁ [cp]).congr (hem.symbolsFit_iff _)

end

/-! ### The statements -/

theorem encCommand_failsEnc {st : Stage} {states : List EncState}
    {body : Encoder → Except ResultCode (Word × Encoder)} {s : State} {rc : ResultCode}
    (h : s.enc.state ∈ states) (hb : body s.enc = .error rc) :
    failsEnc s (.next (encCommand st states body s)) rc st := by
  rw [encCommand_error h hb]
  exact raise_failsEnc rc st s

theorem encPushBody_of_le {c : Config} {a : Word} (h : a ≤ 0x10FFFF) (e : Encoder) :
    encPushBody c a e = (pushCodePoint c a e).map fun e' => (0, e') := by
  rw [encPushBody_eq, cpOperand_of_le h]
  rfl

theorem encPushBody_ok_iff {c : Config} {a v : Word} {e e' : Encoder} :
    encPushBody c a e = .ok (v, e') ↔ a ≤ 0x10FFFF ∧ v = 0 ∧ pushCodePoint c a e = .ok e' := by
  rw [encPushBody_eq, except_bind_ok]
  constructor
  · rintro ⟨cp, hcp, h⟩
    obtain ⟨hle, rfl⟩ := cpOperand_ok.mp hcp
    obtain ⟨_, hp, hv⟩ := except_map_ok.mp h
    cases hv
    exact ⟨hle, rfl, hp⟩
  · rintro ⟨hle, rfl, hp⟩
    exact ⟨a, cpOperand_of_le hle, except_map_ok.mpr ⟨e', hp, rfl⟩⟩

/-- Settles O24: the operand is one of the two modes or out of range. -/
theorem encStartBeginsARun : Obligations.EncStartBeginsARun := by
  refine fun s => ⟨fun h => ?mode, fun h => ?range⟩
  case mode =>
    have hm : modeOperand s.arg0 = .ok (if s.arg0 = 1 then .word else .char) := by
      obtain h | h := h <;> rw [h] <;> rfl
    change execEncStart s = _
    rw [execEncStart, hm]
    rfl
  case range =>
    have hm : modeOperand s.arg0 = .error .eArg := by
      have h0 : s.arg0 ≠ 0 := fun e => by simp [e] at h
      have h1 : s.arg0 ≠ 1 := fun e => by simp [e] at h
      rw [modeOperand, if_neg h0, if_neg h1]
    change failsEnc s (execEncStart s) _ _
    rw [execEncStart, hm]
    exact raise_failsEnc .eArg .analysis s

/-- Settles O26: after the gate and the range check, the code point fits or it does not. -/
theorem encPushTakesOneCodePoint : Obligations.EncPushTakesOneCodePoint := by
  refine fun s => ⟨fun hs => ?gate, fun hs ha => ?range, fun hs ha hok hstream htable hword => ?_⟩
  case gate =>
    exact (outOfStateCommandsFailWithEState .encPush s).1 _ rfl (mt List.mem_singleton.mp hs)
  case range =>
    refine encCommand_failsEnc (List.mem_singleton.mpr hs) ?_
    rw [encPushBody_eq, cpOperand_of_not_le fun h => absurd (BitVec.le_def.mp h) (Nat.not_le.mpr ha)]
    rfl
  obtain ⟨ht, hc, -⟩ := Encoder.analysisOk_iff.mp hok (.inl hs)
  have hfits : FitsIff (pushFits s.cfg s.enc s.arg0) (encPushBody s.cfg s.arg0 s.enc) := by
    rw [encPushBody_of_le (BitVec.le_def.mpr ha)]
    exact (pushCodePoint_fitsIff ht ((symbolsFit_nil ht.nodup).mpr ⟨hstream, htable⟩) hc hword).map _
  refine ⟨fun hp => encCommand_failsEnc (List.mem_singleton.mpr hs) (hfits.2 hp), fun hp => ?_⟩
  obtain ⟨⟨v, e⟩, hb⟩ := hfits.1 hp
  obtain ⟨-, rfl, hpush⟩ := encPushBody_ok_iff.mp hb
  obtain ⟨hem, hwe⟩ := pushCodePoint_emitted ht hc hpush
  exact ⟨complete .analysis 0 (s.setEnc e),
    congrArg Host.Outcome.next (encCommand_ok (List.mem_singleton.mpr hs) hb),
    ⟨rfl, rfl, rfl⟩, ⟨rfl, rfl, rfl, rfl, rfl, rfl⟩, rfl, rfl, rfl, hem.symbols, hwe,
    heldText_of_push hc hem hwe, hem.sym, (EncMove.push (w := 0) _ _ _ hs hb).analysisOk hok,
    hem.frame⟩

/-- Settles O27: the pending run fits or it does not. -/
theorem encEndClosesTheText : Obligations.EncEndClosesTheText := by
  refine fun s => ⟨fun hs => ?gate, fun hs hok hstream htable => ?_⟩
  case gate =>
    exact (outOfStateCommandsFailWithEState .encEnd s).1 _ rfl (mt List.mem_singleton.mp hs)
  obtain ⟨ht, -⟩ := Encoder.analysisOk_iff.mp hok (.inl hs)
  have hfits : FitsIff (symbolsFit s.cfg s.enc (pendingRun s.enc)) (encEndBody s.cfg s.enc) := by
    rw [encEndBody_eq]
    exact (emitWord_fitsIff ht ((symbolsFit_nil ht.nodup).mpr ⟨hstream, htable⟩)).map _
  refine ⟨fun hp => encCommand_failsEnc (List.mem_singleton.mpr hs) (hfits.2 hp), fun hp => ?_⟩
  obtain ⟨⟨v, e⟩, hb⟩ := hfits.1 hp
  have hbody := hb
  rw [encEndBody_eq] at hbody
  obtain ⟨e₁, hrun, hv⟩ := except_map_ok.mp hbody
  cases hv
  have hem := emitWord_emitted ht hrun
  obtain ⟨-, -, hword, -⟩ := emitWord_frame hrun
  have hframe : ({ e₁ with state := .analyzed } : Encoder) =
      { s.enc with state := .analyzed, sym := e₁.sym, freq := e₁.freq, stream := e₁.stream,
                   word := [] } := by
    rw [← hword]
    exact congrArg (fun x : Encoder => { x with state := .analyzed }) hem.frame
  exact ⟨complete .analysis _ (s.setEnc { e₁ with state := .analyzed }),
    congrArg Host.Outcome.next (encCommand_ok (List.mem_singleton.mpr hs) hb),
    ⟨rfl, rfl, rfl⟩, ⟨rfl, rfl, rfl, rfl, rfl, rfl⟩, rfl, rfl, rfl, hem.symbols, hem.sym,
    (EncMove.finish (w := 0) _ _ hs hb).analysisOk hok, hframe⟩

end Sys2Proof.Machine
end

section
/-! PROOFS, part 13. A whole analysis (41_frequency_analyzer R156, R157): what is held between two
code points, and that ENC_END makes it the reference tokenisation and its frequency table. -/

namespace Sys2Proof.Machine

open Sys2Proof.Claims

/-! ### The reference tokeniser (41_frequency_analyzer R152) -/

section
variable {k : AlphaClass} {m : Mode}

theorem flatten_tokenize (k : AlphaClass) (m : Mode) (t : List CP) :
    (tokenize k m t).flatten = t := by
  cases m with
  | char => exact List.flatMap_singleton' t
  | word => exact List.flatten_splitBy _ t

/-- A code point that is no part of a run is a symbol of its own at the end of the text. -/
theorem tokenize_concat (t : List CP) {cp : CP} (h : m = .word → isAlpha k cp = false) :
    tokenize k m (t ++ [cp]) = tokenize k m t ++ [[cp]] := by
  cases m with
  | char => simp [tokenize]
  | word =>
    rw [tokenize, List.splitBy_append (by simp [h rfl])]
    rfl

/-- An alphabetic run after the end of a run, or of the text before it, is one symbol. -/
theorem tokenize_word_append_run {t w : List CP} (ht : ∀ c ∈ t.getLast?, isAlpha k c = false)
    (hw : ∀ c ∈ w, isAlpha k c = true) (hne : w ≠ []) :
    tokenize k .word (t ++ w) = tokenize k .word t ++ [w] := by
  have hcut : ∀ a ∈ t.getLast?, ∀ b ∈ w.head?, (isAlpha k a && isAlpha k b) = false :=
    fun a ha b _ => by rw [ht a ha, Bool.false_and]
  have hrun : w.IsChain fun a b => isAlpha k a && isAlpha k b :=
    (List.pairwise_of_forall_mem_list fun a ha b hb => by simp [hw a ha, hw b hb]).isChain
  rw [tokenize, List.splitBy_append hcut, List.splitBy_of_isChain hne hrun]
  rfl

end

/-! ### Between two code points (41_frequency_analyzer R153) -/

/-- The stream is the tokenisation of the text before the pending run, which is alphabetic and
begins where the tokeniser cuts. -/
structure Encoder.CutOk (k : AlphaClass) (e : Encoder) : Prop where
  tokens : tokenize k e.mode (streamSymbols e).flatten = streamSymbols e
  cut : e.mode = .word → ∀ c ∈ (streamSymbols e).flatten.getLast?, isAlpha k c = false
  run : ∀ c ∈ e.word, isAlpha k c = true
  char : e.mode = .char → e.word = []

/-- The text held so far is cut into the stream's symbols and the pending run. -/
theorem Encoder.CutOk.tokenize_heldText {k : AlphaClass} {e : Encoder} (h : e.CutOk k) :
    tokenize k e.mode e.heldText = streamSymbols e ++ pendingRun e := by
  rw [heldText_eq, pendingRun]
  by_cases hw : e.word = []
  · rw [if_pos hw, hw, List.append_nil, List.append_nil, h.tokens]
  · have hm : e.mode = .word := by
      cases hm : e.mode with
      | char => exact absurd (h.char hm) hw
      | word => rfl
    have htokens := h.tokens
    rw [hm] at htokens ⊢
    rw [if_neg hw, tokenize_word_append_run (h.cut hm) h.run hw, htokens]

theorem Encoder.CutOk.push {k : AlphaClass} {e e' : Encoder} {cp : CP} (h : e.CutOk k)
    (hm : e'.mode = e.mode) (he : Emitted e (emittedBy k e cp) e')
    (hw : e'.word = wordAfter k e cp) : e'.CutOk k := by
  have hsymbols := he.symbols
  by_cases hj : joinsRun k e cp
  · rw [emittedBy_of_joinsRun hj, List.append_nil] at hsymbols
    rw [wordAfter_of_joinsRun hj] at hw
    obtain ⟨hword, halpha⟩ := hj
    constructor
    · rw [hm, hsymbols, h.tokens]
    · rw [hm, hsymbols]; exact h.cut
    · rw [hw]
      exact List.forall_mem_append.mpr ⟨h.run, List.forall_mem_singleton.mpr halpha⟩
    · rw [hm, hword]; exact fun hc => nomatch hc
  · rw [emittedBy_of_not_joinsRun hj h.char] at hsymbols
    rw [wordAfter_of_not_joinsRun hj h.char] at hw
    have hcp : e.mode = .word → isAlpha k cp = false := fun hword =>
      Bool.eq_false_of_not_eq_true fun ha => hj ⟨hword, ha⟩
    have hflat : (streamSymbols e').flatten = e.heldText ++ [cp] := by
      simp [hsymbols, heldText_eq]
    constructor
    · rw [hm, hflat, tokenize_concat _ hcp, h.tokenize_heldText, hsymbols, List.append_assoc]
    · rw [hm, hflat]; simpa using hcp
    · simp [hw]
    · exact fun _ => hw

/-- What the encoder holds once the code points of `text` have been pushed in mode `m`. -/
structure Analysing (k : AlphaClass) (m : Mode) (text : List CP) (e : Encoder) : Prop where
  state : e.state = .loading
  mode : e.mode = m
  table : e.TableOk
  order : e.sym = (streamSymbols e).eraseDups
  cut : e.CutOk k
  held : e.heldText = text

/-- The table stays the distinct symbols of the stream. -/
theorem Emitted.sym_eq_eraseDups {e e' : Encoder} {ys : List Symbol} (h : Emitted e ys e')
    (ho : e.sym = (streamSymbols e).eraseDups) : e'.sym = (streamSymbols e').eraseDups := by
  rw [h.sym, h.symbols, symbolsAfter, ho, eraseDups_eraseDups_append]

theorem freshEncoder_analysing (k : AlphaClass) (m : Mode) : Analysing k m [] (freshEncoder m) where
  state := rfl
  mode := rfl
  table := ⟨rfl, List.nodup_nil, by simp [freshEncoder, Encoder.empty],
    by simp [freshEncoder, Encoder.empty], by simp [freshEncoder, Encoder.empty]⟩
  order := rfl
  cut := ⟨by cases m <;> rfl, fun _ _ hc => (nomatch hc), fun _ hc => (nomatch hc), fun _ => rfl⟩
  held := rfl

theorem Analysing.push {c : Config} {m : Mode} {text : List CP} {e e' : Encoder} {cp : CP}
    (h : Analysing c.alpha m text e) (hp : pushCodePoint c cp e = .ok e') :
    Analysing c.alpha m (text ++ [cp]) e' := by
  obtain ⟨hstate, hmode, -⟩ := pushCodePoint_frame hp
  obtain ⟨he, hw⟩ := pushCodePoint_emitted h.table h.cut.char hp
  exact ⟨hstate.trans h.state, hmode.trans h.mode, pushCodePoint_tableOk hp h.table,
    he.sym_eq_eraseDups h.order, h.cut.push hmode he hw,
    h.held ▸ heldText_of_push h.cut.char he hw⟩

/-! ### The run -/

/-- ENC_START with mode `m`, then ENC_PUSH of every code point of `text`: an analysis before its
ENC_END. -/
def pushText (s : State) (m : Mode) (text : List CP) : State :=
  text.foldl (fun u c => after (exec .encPush (u.setArg0 c)) u)
    (after (exec .encStart (s.setArg0 (modeWord m))) s)

theorem analyse_eq (s : State) (m : Mode) (text : List CP) :
    analyse s m text = encCommand .analysis [.loading] (encEndBody (pushText s m text).cfg)
      (pushText s m text) := rfl

theorem pushText_nil (s : State) (m : Mode) :
    pushText s m [] =
      complete .analysis 0 (((s.setArg0 (modeWord m)).setEnc (freshEncoder m)).setEncErr 0) := by
  cases m <;> rfl

theorem pushText_concat (s : State) (m : Mode) (text : List CP) (cp : CP) :
    pushText s m (text ++ [cp]) =
      encCommand .analysis [.loading] (encPushBody (pushText s m text).cfg cp)
        ((pushText s m text).setArg0 cp) := List.foldl_concat _ _ _ _

theorem pushText_cfg (s : State) (m : Mode) (text : List CP) : (pushText s m text).cfg = s.cfg := by
  induction text using List.reverseRecOn with
  | nil => rw [pushText_nil]; rfl
  | append_singleton text cp ih =>
    rw [pushText_concat]
    exact (encCommand_hostSideKept _ _ _ _).1.trans ih

/-- Until its ENC_END an analysis has failed, or holds the text pushed so far. -/
theorem pushText_error_or_analysing (s : State) (m : Mode) (text : List CP) :
    (pushText s m text).enc.state = .error ∨
      Analysing s.cfg.alpha m text (pushText s m text).enc := by
  induction text using List.reverseRecOn with
  | nil =>
    rw [pushText_nil]
    exact .inr (freshEncoder_analysing _ m)
  | append_singleton text cp ih =>
    rw [pushText_concat, pushText_cfg]
    obtain ⟨hs, v, e, hb, he⟩ | ⟨-, rc, -, he⟩ | ⟨-, he⟩ := encCommand_cases .analysis [.loading]
      (encPushBody s.cfg cp) ((pushText s m text).setArg0 cp) <;> rw [he]
    · have hload : (pushText s m text).enc.state = .loading := List.mem_singleton.mp hs
      have h := ih.resolve_left (by rw [hload]; decide)
      obtain ⟨-, -, hp⟩ := encPushBody_ok_iff.mp hb
      exact .inr (h.push hp)
    · exact .inl (by simp)
    · exact .inl (by simp)

/-! ### The frequency table (41_frequency_analyzer R157) -/

/-- The occurrences of a symbol in the text are those of its index in the stream. -/
theorem Encoder.TableOk.count_streamSymbols {e : Encoder} (h : e.TableOk) {i : Nat}
    (hi : i < e.sym.length) : (streamSymbols e).count e.sym[i] = e.stream.count i := by
  rw [streamSymbols, List.count_eq_countP, List.countP_map, List.count_eq_countP]
  refine List.countP_congr fun p hp => ?_
  have hlt := h.bounded p hp
  simp [hlt, h.nodup.getElem_inj_iff]

theorem Encoder.TableOk.freq_eq_map_count {e : Encoder} (h : e.TableOk) :
    e.freq = e.sym.map fun y => (streamSymbols e).count y := by
  refine List.ext_getElem (by rw [h.aligned, List.length_map]) fun i hi hi' => ?_
  have hlt : i < e.sym.length := h.aligned ▸ hi
  obtain ⟨hcount, -⟩ := h.counted i hlt
  rw [List.getElem_map, h.count_streamSymbols hlt, ← hcount, List.getD_eq_getElem _ _ hi]

theorem Encoder.TableOk.one_le_freq {e : Encoder} (h : e.TableOk) : ∀ n ∈ e.freq, 1 ≤ n := by
  intro n hn
  obtain ⟨i, hi, rfl⟩ := List.getElem_of_mem hn
  obtain ⟨hcount, hpos⟩ := h.counted i (h.aligned ▸ hi)
  rwa [← List.getD_eq_getElem _ 0 hi, hcount]

/-- The counts of the distinct elements of a list sum to its length. -/
theorem sum_count_eraseDups {α : Type} [BEq α] [LawfulBEq α] (l : List α) :
    (l.eraseDups.map fun y => l.count y).sum = l.length := by
  classical
  obtain rfl : ‹BEq α› = instBEqOfDecidableEq := by subsingleton
  have hperm : l.eraseDups.Perm l.dedup :=
    (List.perm_ext_iff_of_nodup (nodup_eraseDups l) l.nodup_dedup).mpr fun a => by simp
  rw [(hperm.map _).sum_eq, List.sum_map_count_dedup_eq_length]

/-! ### The statement -/

theorem isAlpha_asciiLetters (c : CP) :
    isAlpha .asciiLetters c = true ↔
      (0x41 ≤ c.toNat ∧ c.toNat ≤ 0x5A) ∨ (0x61 ≤ c.toNat ∧ c.toNat ≤ 0x7A) := by
  simp [isAlpha, asciiLetter, BitVec.le_def]

/-- An analysis that ends in ANALYZED holds the tokenisation of its text. -/
theorem analyse_analyzed {s : State} {m : Mode} {text : List CP}
    (h : (analyse s m text).enc.state = .analyzed) :
    (analyse s m text).enc.TableOk ∧
    streamSymbols (analyse s m text).enc = tokenize s.cfg.alpha m text ∧
    (analyse s m text).enc.sym = (streamSymbols (analyse s m text).enc).eraseDups := by
  rw [analyse_eq] at h ⊢
  obtain ⟨hs, v, e, hb, he⟩ | ⟨-, rc, -, he⟩ | ⟨-, he⟩ := encCommand_cases .analysis [.loading]
    (encEndBody (pushText s m text).cfg) (pushText s m text)
  · rw [he]
    obtain ⟨e₁, hrun, rfl⟩ := encEndBody_ok hb
    have hload : (pushText s m text).enc.state = .loading := List.mem_singleton.mp hs
    have ha := (pushText_error_or_analysing s m text).resolve_left (by rw [hload]; decide)
    have hem := emitWord_emitted ha.table hrun
    have htokens := ha.cut.tokenize_heldText
    rw [ha.mode, ha.held, ← hem.symbols] at htokens
    exact ⟨(emitWord_tableOk hrun ha.table).of_eq rfl rfl rfl, htokens.symm,
      hem.sym_eq_eraseDups ha.order⟩
  · rw [he] at h; simp at h
  · rw [he] at h; simp at h

/-- Settles O28: the stream is the tokenisation, and the table is read off the stream. -/
theorem analysisIsTheReferenceTokenisation : Obligations.AnalysisIsTheReferenceTokenisation := by
  refine ⟨isAlpha_asciiLetters, fun s m text h => ?_⟩
  obtain ⟨ht, htokens, horder⟩ := analyse_analyzed h
  have hfreq := ht.freq_eq_map_count
  have hlength : (streamSymbols (analyse s m text).enc).length =
      (analyse s m text).enc.stream.length := List.length_map _
  refine ⟨htokens, by rw [htokens, flatten_tokenize], by rw [horder, htokens],
    by rw [hfreq, htokens], ht.one_le_freq, ?_, by rw [← hlength, htokens]⟩
  rw [hfreq, horder, sum_count_eraseDups, hlength]

end Sys2Proof.Machine
end

section
/-! PROOFS, part 14. The tree builder (42_tree_builder R180 to R187): what one merge takes and adds,
and what ENC_BUILD's loop keeps of the nodes and the queue. -/

namespace Sys2Proof.Machine

open Sys2Proof.Claims

/-! ### POPMIN and the merge (42_tree_builder R182) -/

theorem notAfter_refl (nodes : List EncNode) (a : Nat) : notAfter nodes a a :=
  .inr ⟨rfl, Nat.le_refl a⟩

theorem notAfter_total (nodes : List EncNode) (a b : Nat) :
    notAfter nodes a b ∨ notAfter nodes b a := by
  unfold notAfter; omega

theorem notAfter_trans {nodes : List EncNode} {a b c : Nat} (hab : notAfter nodes a b)
    (hbc : notAfter nodes b c) : notAfter nodes a c := by
  unfold notAfter at *; omega

theorem weight_le_of_notAfter {nodes : List EncNode} {a b : Nat} (h : notAfter nodes a b) :
    weightOf nodes a ≤ weightOf nodes b := by
  unfold notAfter at h; omega

theorem lighter_iff_notAfter {nodes : List EncNode} {a b : Nat} :
    lighter nodes a b = true ↔ notAfter nodes a b := decide_eq_true_iff

/-- The id that POPMIN takes from `q`. -/
structure LeastOf (nodes : List EncNode) (q : List Nat) (x : Nat) : Prop where
  mem : x ∈ q
  least : ∀ k ∈ q, notAfter nodes x k

theorem minId_notAfter (nodes : List EncNode) (k : Nat) (q : List Nat) :
    ∀ i ∈ k :: q, notAfter nodes (minId nodes k q) i := by
  induction q generalizing k with
  | nil => exact fun i hi => List.mem_singleton.mp hi ▸ notAfter_refl nodes i
  | cons j q ih =>
    rw [minId]
    split
    · next hkj =>
      have hk := ih k k List.mem_cons_self
      intro i hi
      obtain rfl | rfl | hi := by simpa only [List.mem_cons] using hi
      · exact hk
      · exact notAfter_trans hk (lighter_iff_notAfter.mp hkj)
      · exact ih k i (List.mem_cons_of_mem k hi)
    · next hkj =>
      intro i hi
      obtain rfl | hi := List.mem_cons.mp hi
      · have hji := (notAfter_total nodes i j).resolve_left (mt lighter_iff_notAfter.mpr hkj)
        exact notAfter_trans (ih j j List.mem_cons_self) hji
      · exact ih j i hi

theorem exists_popMin (nodes : List EncNode) {q : List Nat} (h : q ≠ []) :
    ∃ x, LeastOf nodes q x ∧ popMin nodes q = some (x, q.erase x) := by
  obtain ⟨k, q, rfl⟩ := List.exists_cons_of_ne_nil h
  exact ⟨minId nodes k q, ⟨minId_mem nodes k q, minId_notAfter nodes k q⟩, rfl⟩

/-- The nodes after a merge that removed `x` first and `y` second. -/
def mergeNodes (nodes : List EncNode) (x y : Nat) : List EncNode :=
  nodes ++ [.internal y x (weightOf nodes x + weightOf nodes y)]

/-- The queue after a merge that removed `x` first and `y` second. -/
def mergeQueue (nodes : List EncNode) (q : List Nat) (x y : Nat) : List Nat :=
  (q.erase x).erase y ++ [nodes.length]

theorem exists_mergeStep (nodes : List EncNode) {q : List Nat} (h : 2 ≤ q.length) :
    ∃ x y, LeastOf nodes q x ∧ LeastOf nodes (q.erase x) y ∧
      mergeStep nodes q = some (mergeNodes nodes x y, mergeQueue nodes q x y) := by
  obtain ⟨x, hx, hpx⟩ := exists_popMin nodes (List.length_pos_iff.mp (by omega : 0 < q.length))
  have herase := List.length_erase_of_mem hx.mem
  obtain ⟨y, hy, hpy⟩ := exists_popMin nodes
    (List.length_pos_iff.mp (by omega : 0 < (q.erase x).length))
  refine ⟨x, y, hx, hy, ?_⟩
  simp only [mergeStep, hpx, hpy, mergeNodes, mergeQueue]

/-- Settles O29: POPMIN is applied to the queue and then to what it left. -/
theorem mergeTakesTheTwoLeastNodes : Obligations.MergeTakesTheTwoLeastNodes := by
  intro nodes q hq hlen
  obtain ⟨x, y, hx, hy, hstep⟩ := exists_mergeStep nodes hlen
  have hyq := hq.mem_erase_iff.mp hy.mem
  exact ⟨x, y, hx.mem, hyq.2, hyq.1.symm, hx.least,
    fun k hk hkx => hy.least k ((List.mem_erase_of_ne hkx).mpr hk), hstep⟩

/-! ### The merge loop (42_tree_builder R180) -/

/-- What every merge keeps, the loop keeps. -/
theorem mergeAll_induction {P : List EncNode → List Nat → Prop}
    (hstep : ∀ nodes q x y, LeastOf nodes q x → LeastOf nodes (q.erase x) y → P nodes q →
      P (mergeNodes nodes x y) (mergeQueue nodes q x y))
    (fuel : Nat) (nodes : List EncNode) (q : List Nat) (h : P nodes q) :
    P (mergeAll fuel nodes q).1 (mergeAll fuel nodes q).2 := by
  induction fuel generalizing nodes q with
  | zero => exact h
  | succ fuel ih =>
    unfold mergeAll
    split
    · next nodes' q' hm =>
      obtain ⟨-, hlen, hpos⟩ := mergeStep_length hm
      obtain ⟨x, y, hx, hy, he⟩ := exists_mergeStep nodes (by omega : 2 ≤ q.length)
      cases he.symm.trans hm
      exact ih _ _ (hstep nodes q x y hx hy h)
    · exact h

/-- Fuel equal to the queue's length is enough for the loop to end with at most one id. -/
theorem mergeAll_queue_length (fuel : Nat) (nodes : List EncNode) (q : List Nat)
    (h : q.length ≤ fuel + 1) : (mergeAll fuel nodes q).2.length ≤ 1 := by
  induction fuel generalizing nodes q with
  | zero => exact h
  | succ fuel ih =>
    unfold mergeAll
    split
    · next nodes' q' hm =>
      obtain ⟨-, hlen, -⟩ := mergeStep_length hm
      exact ih nodes' q' (by omega)
    · next hm =>
      by_contra hlt
      dsimp only at hlt
      obtain ⟨x, y, -, -, he⟩ := exists_mergeStep nodes (by omega : 2 ≤ q.length)
      cases he.symm.trans hm

/-! ### The nodes and the queue after a merge -/

section
variable {nodes : List EncNode} {q : List Nat} {x y k : Nat}

@[simp] theorem length_mergeNodes : (mergeNodes nodes x y).length = nodes.length + 1 := by
  simp [mergeNodes]

theorem getElem?_mergeNodes_lt (h : k < nodes.length) : (mergeNodes nodes x y)[k]? = nodes[k]? :=
  List.getElem?_append_left h

@[simp] theorem getElem?_mergeNodes_length : (mergeNodes nodes x y)[nodes.length]? =
    some (.internal y x (weightOf nodes x + weightOf nodes y)) := List.getElem?_concat_length

theorem getElem?_mergeNodes_of_some {a : EncNode} (h : nodes[k]? = some a) :
    (mergeNodes nodes x y)[k]? = some a :=
  (getElem?_mergeNodes_lt (List.getElem?_eq_some_iff.mp h).1).trans h

theorem getElem?_mergeNodes_cases {a : EncNode} (h : (mergeNodes nodes x y)[k]? = some a) :
    nodes[k]? = some a ∨
      (k = nodes.length ∧ a = .internal y x (weightOf nodes x + weightOf nodes y)) := by
  have hk := (List.getElem?_eq_some_iff.mp h).1
  rw [length_mergeNodes] at hk
  obtain hk | rfl : k < nodes.length ∨ k = nodes.length := by omega
  · exact .inl (getElem?_mergeNodes_lt hk ▸ h)
  · exact .inr ⟨rfl, Option.some.inj (h.symm.trans getElem?_mergeNodes_length)⟩

theorem weightOf_mergeNodes_lt (h : k < nodes.length) :
    weightOf (mergeNodes nodes x y) k = weightOf nodes k := by
  simp only [weightOf, getElem?_mergeNodes_lt h]

@[simp] theorem weightOf_mergeNodes_length :
    weightOf (mergeNodes nodes x y) nodes.length = weightOf nodes x + weightOf nodes y := by
  simp only [weightOf, getElem?_mergeNodes_length, EncNode.weight]

/-- Node `k` is a child of the internal node `p`. -/
def IsChild (nodes : List EncNode) (p k : Nat) : Prop :=
  ∃ l r w, nodes[p]? = some (EncNode.internal l r w) ∧ (k = l ∨ k = r)

theorem IsChild.lt_length {p : Nat} (h : IsChild nodes p k) : p < nodes.length := by
  obtain ⟨l, r, w, hp, -⟩ := h
  exact (List.getElem?_eq_some_iff.mp hp).1

theorem isChild_mergeNodes {p : Nat} : IsChild (mergeNodes nodes x y) p k ↔
    IsChild nodes p k ∨ (p = nodes.length ∧ (k = y ∨ k = x)) := by
  constructor
  · rintro ⟨l, r, w, hp, hk⟩
    obtain hp | ⟨rfl, he⟩ := getElem?_mergeNodes_cases hp
    · exact .inl ⟨l, r, w, hp, hk⟩
    · cases he
      exact .inr ⟨rfl, hk⟩
  · rintro (⟨l, r, w, hp, hk⟩ | ⟨rfl, hk⟩)
    · exact ⟨l, r, w, getElem?_mergeNodes_of_some hp, hk⟩
    · exact ⟨y, x, _, getElem?_mergeNodes_length, hk⟩

theorem followTree_cons {l r w : Nat} (h : nodes[k]? = some (.internal l r w)) (b : Bit)
    (c : Code) : followTree nodes k (b :: c) = followTree nodes (if b then r else l) c := by
  rw [followTree, h]

theorem followTree_mergeNodes {i : Nat} {c : Code} (h : followTree nodes k c = some i) :
    followTree (mergeNodes nodes x y) k c = some i := by
  induction c generalizing k with
  | nil => exact h
  | cons b c ih =>
    unfold followTree at h
    split at h
    · next l r w hk => exact (followTree_cons (getElem?_mergeNodes_of_some hk) b c).trans (ih h)
    · cases h

theorem mem_mergeQueue (hq : q.Nodup) :
    k ∈ mergeQueue nodes q x y ↔ (k ∈ q ∧ k ≠ x ∧ k ≠ y) ∨ k = nodes.length := by
  simp only [mergeQueue, List.mem_append, List.mem_singleton, (hq.erase x).mem_erase_iff,
    hq.mem_erase_iff]
  tauto

/-- The queue is the two removed ids and the ids left. -/
theorem perm_removed (hx : LeastOf nodes q x) (hy : LeastOf nodes (q.erase x) y) :
    q.Perm (x :: y :: (q.erase x).erase y) :=
  (List.perm_cons_erase hx.mem).trans ((List.perm_cons_erase hy.mem).cons x)

end

/-! ### The shape of the nodes (42_tree_builder R181, R183, R186) -/

/-- What the merge loop keeps of the nodes and the queue: the leaves stand first, and the queue
holds the roots of a forest whose leaves they are. -/
structure Forest (n : Nat) (freq : List Nat) (nodes : List EncNode) (q : List Nat) : Prop where
  size : nodes.length + q.length = 2 * n
  leaves : ∀ i < n, nodes[i]? = some (EncNode.leaf i (freq.getD i 0))
  internals : ∀ k, n ≤ k → k < nodes.length →
    ∃ l r w, nodes[k]? = some (EncNode.internal l r w)
  below : ∀ p l r w, nodes[p]? = some (EncNode.internal l r w) → l < p ∧ r < p ∧ l ≠ r
  nodup : q.Nodup
  ids : ∀ k ∈ q, k < nodes.length
  orphan : ∀ k ∈ q, ∀ p, ¬ IsChild nodes p k
  parent : ∀ k < nodes.length, k ∉ q → ∃! p, IsChild nodes p k
  reached : ∀ i < n, ∃ k ∈ q, ∃ c, followTree nodes k c = some i

theorem leafNodes_getElem? (n : Nat) (freq : List Nat) {i : Nat} (h : i < n) :
    (leafNodes n freq)[i]? = some (.leaf i (freq.getD i 0)) := by
  simp [leafNodes, h]

theorem leafNodes_ne_internal {n : Nat} {freq : List Nat} {p l r w : Nat} :
    (leafNodes n freq)[p]? ≠ some (EncNode.internal l r w) := by
  intro hp
  have hlt := (List.getElem?_eq_some_iff.mp hp).1
  rw [leafNodes_length] at hlt
  cases (leafNodes_getElem? n freq hlt).symm.trans hp

theorem forest_leafNodes (n : Nat) (freq : List Nat) :
    Forest n freq (leafNodes n freq) (List.range n) where
  size := by simp; omega
  leaves _ := leafNodes_getElem? n freq
  internals k hk hlt := by rw [leafNodes_length] at hlt; omega
  below _ _ _ _ hp := absurd hp leafNodes_ne_internal
  nodup := List.nodup_range
  ids k hk := by rwa [leafNodes_length, ← List.mem_range]
  orphan := fun _ _ _ ⟨_, _, _, hp, _⟩ => leafNodes_ne_internal hp
  parent k hlt hk := by
    rw [leafNodes_length] at hlt
    exact absurd (List.mem_range.mpr hlt) hk
  reached i hi := ⟨i, List.mem_range.mpr hi, [], rfl⟩

section
variable {n : Nat} {freq : List Nat} {nodes : List EncNode} {q : List Nat} {x y : Nat}

theorem Forest.le_length (h : Forest n freq nodes q) : n ≤ nodes.length := by
  by_contra hlt
  have := h.leaves nodes.length (by omega)
  simp at this

theorem Forest.child_lt (h : Forest n freq nodes q) {p k : Nat} (hc : IsChild nodes p k) :
    k < p := by
  obtain ⟨l, r, w, hp, rfl | rfl⟩ := hc
  · exact (h.below p k r w hp).1
  · exact (h.below p l k w hp).2.1

/-- The last node of a forest is nobody's child, so it is a root. -/
theorem Forest.last_mem (h : Forest n freq nodes q) (hn : n ≠ 0) : nodes.length - 1 ∈ q := by
  have hlen := h.le_length
  by_contra hk
  obtain ⟨p, hp, -⟩ := h.parent _ (by omega) hk
  have := hp.lt_length
  have := h.child_lt hp
  omega

/-- The ids of the next queue are nobody's children: of the old queue it has none of the two
removed, and the merged node is newer than every child. -/
theorem Forest.merge_orphan (h : Forest n freq nodes q) (hx : LeastOf nodes q x)
    (hy : LeastOf nodes (q.erase x) y) {k : Nat} (hk : k ∈ mergeQueue nodes q x y) (p : Nat) :
    ¬ IsChild (mergeNodes nodes x y) p k := by
  intro hp
  obtain ⟨hkq, hkx, hky⟩ | rfl := (mem_mergeQueue h.nodup).mp hk
  · obtain hp | ⟨-, hc⟩ := isChild_mergeNodes.mp hp
    · exact h.orphan k hkq p hp
    · exact hc.elim hky hkx
  · obtain hp | ⟨-, hc⟩ := isChild_mergeNodes.mp hp
    · exact Nat.lt_asymm hp.lt_length (h.child_lt hp)
    · have hxlt := h.ids x hx.mem
      have hylt := h.ids y (List.mem_of_mem_erase hy.mem)
      omega

/-- A node outside the next queue is a child of the merged node when it was in the queue, and of
its old parent otherwise. -/
theorem Forest.merge_parent (h : Forest n freq nodes q) (hx : LeastOf nodes q x)
    (hy : LeastOf nodes (q.erase x) y) {k : Nat} (hlt : k < nodes.length + 1)
    (hk : k ∉ mergeQueue nodes q x y) : ∃! p, IsChild (mergeNodes nodes x y) p k := by
  rw [mem_mergeQueue h.nodup] at hk
  by_cases hkq : k ∈ q
  · have hc : k = y ∨ k = x := by tauto
    refine ⟨nodes.length, isChild_mergeNodes.mpr (.inr ⟨rfl, hc⟩), fun p hp => ?_⟩
    exact ((isChild_mergeNodes.mp hp).resolve_left (h.orphan k hkq p)).1
  · have hne : k ≠ nodes.length := fun e => hk (.inr e)
    obtain ⟨p, hp, hu⟩ := h.parent k (by omega) hkq
    refine ⟨p, isChild_mergeNodes.mpr (.inl hp), fun p' hp' => ?_⟩
    refine hu p' ((isChild_mergeNodes.mp hp').resolve_right ?_)
    rintro ⟨-, rfl | rfl⟩
    · exact hkq (List.mem_of_mem_erase hy.mem)
    · exact hkq hx.mem

/-- A leaf below one of the two removed nodes is reached from the merged node by one more bit. -/
theorem Forest.merge_reached (h : Forest n freq nodes q) {i : Nat} (hi : i < n) :
    ∃ k ∈ mergeQueue nodes q x y, ∃ c, followTree (mergeNodes nodes x y) k c = some i := by
  obtain ⟨k, hk, c, hc⟩ := h.reached i hi
  have hc := followTree_mergeNodes (x := x) (y := y) hc
  have hnew : nodes.length ∈ mergeQueue nodes q x y := (mem_mergeQueue h.nodup).mpr (.inr rfl)
  by_cases hkx : k = x
  · exact ⟨_, hnew, true :: c, (followTree_cons getElem?_mergeNodes_length true c).trans (hkx ▸ hc)⟩
  by_cases hky : k = y
  · exact ⟨_, hnew, false :: c,
      (followTree_cons getElem?_mergeNodes_length false c).trans (hky ▸ hc)⟩
  · exact ⟨k, (mem_mergeQueue h.nodup).mpr (.inl ⟨hk, hkx, hky⟩), c, hc⟩

theorem Forest.merge (h : Forest n freq nodes q) (hx : LeastOf nodes q x)
    (hy : LeastOf nodes (q.erase x) y) :
    Forest n freq (mergeNodes nodes x y) (mergeQueue nodes q x y) := by
  refine ⟨?size, fun i hi => getElem?_mergeNodes_of_some (h.leaves i hi), ?internals, ?below,
    ?nodup, ?ids, fun k hk => h.merge_orphan hx hy hk,
    fun k hlt => h.merge_parent hx hy (length_mergeNodes ▸ hlt), fun i hi => h.merge_reached hi⟩
  case size =>
    have hperm := (perm_removed hx hy).length_eq
    have hsize := h.size
    simp only [List.length_cons] at hperm
    simp only [length_mergeNodes, mergeQueue, List.length_append, List.length_singleton]
    omega
  case internals =>
    intro k hk hlt
    rw [length_mergeNodes] at hlt
    obtain hlt | rfl : k < nodes.length ∨ k = nodes.length := by omega
    · obtain ⟨l, r, w, he⟩ := h.internals k hk hlt
      exact ⟨l, r, w, getElem?_mergeNodes_of_some he⟩
    · exact ⟨y, x, _, getElem?_mergeNodes_length⟩
  case below =>
    intro p l r w hp
    obtain hp | ⟨rfl, he⟩ := getElem?_mergeNodes_cases hp
    · exact h.below p l r w hp
    · cases he
      obtain ⟨hyx, hyq⟩ := h.nodup.mem_erase_iff.mp hy.mem
      exact ⟨h.ids y hyq, h.ids x hx.mem, hyx⟩
  case nodup =>
    refine List.nodup_append.mpr ⟨(h.nodup.erase x).erase y, List.nodup_singleton _, ?_⟩
    intro k hk j hj
    rw [List.mem_singleton.mp hj]
    exact (h.ids k (List.mem_of_mem_erase (List.mem_of_mem_erase hk))).ne
  case ids =>
    intro k hk
    rw [length_mergeNodes]
    obtain ⟨hk, -⟩ | rfl := (mem_mergeQueue h.nodup).mp hk
    · exact Nat.lt_succ_of_lt (h.ids k hk)
    · exact Nat.lt_succ_self _

end

/-! ### The weights (42_tree_builder R184, R187) -/

/-- What the merge loop keeps of the weights: they are sums, and the queue weighs what the leaves
do; no two nodes of the queue weigh less together than a node merged before. -/
structure Weighed (n : Nat) (freq : List Nat) (nodes : List EncNode) (q : List Nat) : Prop where
  sums : ∀ p l r w : Nat, nodes[p]? = some (EncNode.internal l r w) →
    w = weightOf nodes l + weightOf nodes r
  total : (q.map (weightOf nodes)).sum = ((List.range n).map fun i => freq.getD i 0).sum
  rising : ∀ p k, n ≤ p → p ≤ k → k < nodes.length → weightOf nodes p ≤ weightOf nodes k
  bound : ∀ p, n ≤ p → p < nodes.length → ∀ a ∈ q, ∀ b ∈ q, a ≠ b →
    weightOf nodes p ≤ weightOf nodes a + weightOf nodes b

theorem weightOf_leafNodes (n : Nat) (freq : List Nat) {i : Nat} (h : i < n) :
    weightOf (leafNodes n freq) i = freq.getD i 0 := by
  rw [weightOf, leafNodes_getElem? n freq h]
  rfl

theorem weighed_leafNodes (n : Nat) (freq : List Nat) :
    Weighed n freq (leafNodes n freq) (List.range n) where
  sums _ _ _ _ hp := absurd hp leafNodes_ne_internal
  total := congrArg List.sum (List.map_congr_left fun _ hi =>
    weightOf_leafNodes n freq (List.mem_range.mp hi))
  rising p k hp hpk hk := by rw [leafNodes_length] at hk; omega
  bound p hp hlt := by rw [leafNodes_length] at hlt; omega

section
variable {n : Nat} {freq : List Nat} {nodes : List EncNode} {q : List Nat} {x y : Nat}

/-- The queue's nodes keep their weights in a merge. -/
theorem Forest.weightOf_queue (h : Forest n freq nodes q) {k : Nat} (hk : k ∈ q) :
    weightOf (mergeNodes nodes x y) k = weightOf nodes k := weightOf_mergeNodes_lt (h.ids k hk)

/-- The merged node is no heavier than any two nodes of the next queue: both of them weigh at least
as much as the second node removed, or one of them is the merged node. -/
theorem Forest.merged_weight_le (h : Forest n freq nodes q) (hx : LeastOf nodes q x)
    (hy : LeastOf nodes (q.erase x) y) {a b : Nat} (ha : a ∈ mergeQueue nodes q x y)
    (hb : b ∈ mergeQueue nodes q x y) (hab : a ≠ b) :
    weightOf nodes x + weightOf nodes y ≤
      weightOf (mergeNodes nodes x y) a + weightOf (mergeNodes nodes x y) b := by
  obtain ⟨haq, hax, -⟩ | rfl := (mem_mergeQueue h.nodup).mp ha
  · obtain ⟨hbq, hbx, -⟩ | rfl := (mem_mergeQueue h.nodup).mp hb
    · rw [h.weightOf_queue haq, h.weightOf_queue hbq]
      exact Nat.add_le_add (weight_le_of_notAfter (hx.least a haq))
        (weight_le_of_notAfter (hy.least b ((List.mem_erase_of_ne hbx).mpr hbq)))
    · rw [weightOf_mergeNodes_length]
      exact Nat.le_add_left _ _
  · rw [weightOf_mergeNodes_length]
    exact Nat.le_add_right _ _

theorem Weighed.merge (hf : Forest n freq nodes q) (h : Weighed n freq nodes q)
    (hx : LeastOf nodes q x) (hy : LeastOf nodes (q.erase x) y) :
    Weighed n freq (mergeNodes nodes x y) (mergeQueue nodes q x y) := by
  obtain ⟨hyx, hyq⟩ := hf.nodup.mem_erase_iff.mp hy.mem
  have hmerged {p : Nat} (hp : n ≤ p) (hlt : p < nodes.length) :
      weightOf (mergeNodes nodes x y) p ≤ weightOf nodes x + weightOf nodes y := by
    rw [weightOf_mergeNodes_lt hlt]
    exact h.bound p hp hlt x hx.mem y hyq hyx.symm
  refine ⟨?sums, ?total, ?rising, ?bound⟩
  case sums =>
    intro p l r w hp
    obtain hp | ⟨rfl, he⟩ := getElem?_mergeNodes_cases hp
    · obtain ⟨hl, hr, -⟩ := hf.below p l r w hp
      have hlt := (List.getElem?_eq_some_iff.mp hp).1
      rw [weightOf_mergeNodes_lt (hl.trans hlt), weightOf_mergeNodes_lt (hr.trans hlt)]
      exact h.sums p l r w hp
    · cases he
      rw [hf.weightOf_queue hx.mem, hf.weightOf_queue hyq, Nat.add_comm]
  case total =>
    have hrest : ((q.erase x).erase y).map (weightOf (mergeNodes nodes x y)) =
        ((q.erase x).erase y).map (weightOf nodes) :=
      List.map_congr_left fun k hk =>
        hf.weightOf_queue (List.mem_of_mem_erase (List.mem_of_mem_erase hk))
    have hperm := ((perm_removed hx hy).map (weightOf nodes)).sum_eq
    rw [h.total] at hperm
    rw [hperm, mergeQueue, List.map_append, hrest, List.sum_append]
    simp only [List.map_cons, List.map_nil, List.sum_cons, List.sum_nil,
      weightOf_mergeNodes_length]
    omega
  case rising =>
    intro p k hp hpk hk
    rw [length_mergeNodes] at hk
    obtain hk | rfl : k < nodes.length ∨ k = nodes.length := by omega
    · rw [weightOf_mergeNodes_lt (by omega), weightOf_mergeNodes_lt hk]
      exact h.rising p k hp hpk hk
    · obtain hlt | rfl : p < nodes.length ∨ p = nodes.length := by omega
      · rw [weightOf_mergeNodes_length]
        exact hmerged hp hlt
      · exact Nat.le_refl _
  case bound =>
    intro p hp hlt a ha b hb hab
    have hle := hf.merged_weight_le hx hy ha hb hab
    rw [length_mergeNodes] at hlt
    obtain hlt | rfl : p < nodes.length ∨ p = nodes.length := by omega
    · exact (hmerged hp hlt).trans hle
    · rwa [weightOf_mergeNodes_length]

end

/-! ### The tree of a frequency table -/

/-- The loop of ENC_BUILD ends with a forest of at most one tree, rooted at the root. -/
theorem buildTree_forest_and_weighed (n : Nat) (freq : List Nat) :
    Forest n freq (buildTree n freq).1 (buildTree n freq).2.toList ∧
    Weighed n freq (buildTree n freq).1 (buildTree n freq).2.toList := by
  have hlen := mergeAll_queue_length n (leafNodes n freq) (List.range n) (by simp)
  have hqueue : (buildTree n freq).2.toList =
      (mergeAll n (leafNodes n freq) (List.range n)).2 := by
    simp only [buildTree]
    cases hq : (mergeAll n (leafNodes n freq) (List.range n)).2 with
    | nil => rfl
    | cons k q =>
      rw [hq, List.length_cons] at hlen
      rw [List.length_eq_zero_iff.mp (by omega : q.length = 0)]
      rfl
  rw [hqueue]
  exact mergeAll_induction (P := fun nodes q => Forest n freq nodes q ∧ Weighed n freq nodes q)
    (fun _ _ _ _ hx hy h => ⟨h.1.merge hx hy, h.2.merge h.1 hx hy⟩) n _ _
    ⟨forest_leafNodes n freq, weighed_leafNodes n freq⟩

theorem buildTree_forest (n : Nat) (freq : List Nat) :
    Forest n freq (buildTree n freq).1 (buildTree n freq).2.toList :=
  (buildTree_forest_and_weighed n freq).1

theorem buildTree_weighed (n : Nat) (freq : List Nat) :
    Weighed n freq (buildTree n freq).1 (buildTree n freq).2.toList :=
  (buildTree_forest_and_weighed n freq).2

/-- The root is the last node (42_tree_builder R183). -/
theorem buildTree_root {n : Nat} (hn : n ≠ 0) (freq : List Nat) :
    (buildTree n freq).2 = some ((buildTree n freq).1.length - 1) :=
  Option.mem_toList.mp ((buildTree_forest n freq).last_mem hn)

theorem buildTree_length_eq {n : Nat} (hn : n ≠ 0) (freq : List Nat) :
    (buildTree n freq).1.length = 2 * n - 1 := by
  have hsize := (buildTree_forest n freq).size
  rw [buildTree_root hn, Option.toList_some, List.length_singleton] at hsize
  omega

/-! ### The statements -/

/-- ENC_BUILD of a state that has been analysed. -/
theorem exec_encBuild {s : State} (hs : s.enc.state = .analyzed) :
    exec .encBuild s = .next (complete .treeBuild
      (countWord (buildTree s.enc.sym.length s.enc.freq).1.length)
      (s.setEnc { s.enc with node := (buildTree s.enc.sym.length s.enc.freq).1,
                             root := (buildTree s.enc.sym.length s.enc.freq).2,
                             state := .built })) :=
  congrArg Host.Outcome.next (encCommand_ok (List.mem_singleton.mpr hs) rfl)

/-- The tree that ENC_BUILD leaves in the encoder. -/
theorem exec_encBuild_tree {s t : State} (hs : s.enc.state = .analyzed)
    (h : exec .encBuild s = .next t) :
    t.enc.node = (buildTree s.enc.sym.length s.enc.freq).1 ∧
    t.enc.root = (buildTree s.enc.sym.length s.enc.freq).2 := by
  cases (exec_encBuild hs).symm.trans h
  exact ⟨rfl, rfl⟩

/-- Settles O30: the count, the root and the leaves are those of a forest of one tree. -/
theorem encBuildCreatesTheTree : Obligations.EncBuildCreatesTheTree := by
  intro s hs
  have hf := buildTree_forest s.enc.sym.length s.enc.freq
  refine ⟨_, exec_encBuild hs, ⟨rfl, rfl, rfl⟩, ⟨rfl, rfl, rfl, rfl, rfl, rfl⟩, rfl, rfl, rfl, rfl,
    ?length, ?root, hf.leaves, hf.internals⟩
  case length =>
    change (buildTree s.enc.sym.length s.enc.freq).1.length = _
    split
    · next hn => rw [hn]; rfl
    · next hn => exact buildTree_length_eq hn _
  case root =>
    change (buildTree s.enc.sym.length s.enc.freq).2 =
      if s.enc.sym.length = 0 then none
      else some ((buildTree s.enc.sym.length s.enc.freq).1.length - 1)
    split
    · next hn => rw [hn]; rfl
    · next hn => exact buildTree_root hn _

/-- Settles O31: the tree is a forest whose only root is the last node. -/
theorem encBuildTreeIsFullAndAcyclic : Obligations.EncBuildTreeIsFullAndAcyclic := by
  intro s t hs hsym h
  obtain ⟨hnode, hroot⟩ := exec_encBuild_tree hs h
  have hf := buildTree_forest s.enc.sym.length s.enc.freq
  have hlast := buildTree_root (mt List.length_eq_zero_iff.mp hsym) s.enc.freq
  rw [hlast, ← hnode] at hf hroot
  refine ⟨_, hroot, fun k hk hne => hf.parent k hk (mt List.mem_singleton.mp hne), hf.below,
    fun i hi => ?_⟩
  obtain ⟨k, hk, c, hc⟩ := hf.reached i hi
  exact ⟨c, List.mem_singleton.mp hk ▸ hc⟩

/-- The counts of a consistent table add up to the length of the stream. -/
theorem Encoder.TableOk.sum_freq {e : Encoder} (h : e.TableOk) :
    ((List.range e.sym.length).map fun i => e.freq.getD i 0).sum = e.stream.length := by
  have hcount : ((List.range e.sym.length).map fun i => e.freq.getD i 0) =
      (List.range e.sym.length).map fun i => e.stream.count i :=
    List.map_congr_left fun i hi => (h.counted i (List.mem_range.mp hi)).1
  have hcard := Multiset.sum_count_eq_card (s := Finset.range e.sym.length) (m := e.stream)
    fun p hp => Finset.mem_range.mpr (h.bounded p hp)
  simp only [Multiset.coe_count, Multiset.coe_card] at hcard
  exact (congrArg List.sum hcount).trans hcard

/-- Settles O32: the sums hold of every node, and the root alone is left of the queue. -/
theorem encBuildWeightsAreSums : Obligations.EncBuildWeightsAreSums := by
  intro s t hs hok h
  obtain ⟨hnode, hroot⟩ := exec_encBuild_tree hs h
  obtain ⟨ht, -⟩ := Encoder.analysisOk_iff.mp hok (.inr (.inl hs))
  have hf := buildTree_forest s.enc.sym.length s.enc.freq
  have hw := buildTree_weighed s.enc.sym.length s.enc.freq
  rw [← hnode, ← hroot] at hf hw
  refine ⟨fun i w hi => ?leaf, hw.sums, fun root hr => ?root⟩
  case leaf =>
    obtain hlt | hle := Nat.lt_or_ge i s.enc.sym.length
    · cases (hf.leaves i hlt).symm.trans hi
      exact (ht.counted i hlt).1
    · obtain ⟨l, r, w', he⟩ := hf.internals i hle (List.getElem?_eq_some_iff.mp hi).1
      cases he.symm.trans hi
  case root =>
    have htotal := hw.total
    rwa [hr, ht.sum_freq, Option.toList_some, List.map_singleton, List.sum_singleton] at htotal

/-- Settles O33: a merge never takes two nodes lighter together than those of an earlier merge. -/
theorem mergeWeightsNeverDecrease : Obligations.MergeWeightsNeverDecrease := by
  intro s t hs h
  rw [(exec_encBuild_tree hs h).1]
  exact (buildTree_weighed s.enc.sym.length s.enc.freq).rising

end Sys2Proof.Machine
end

section
/-! PROOFS, part 15. The code assigner (43_code_assigner R200 to R203): the paths it finds lead to
leaves, so no code begins another one, and in the tree of ENC_BUILD it finds each leaf once. -/

namespace Sys2Proof.Machine

open Sys2Proof.Claims

/-! ### Following a path (43_code_assigner R201) -/

section
variable {nodes : List EncNode} {k : Nat}

theorem followTree_append (nodes : List EncNode) (k : Nat) (c d : Code) :
    followTree nodes k (c ++ d) = (followTree nodes k c).bind fun m => followTree nodes m d := by
  induction c generalizing k with
  | nil => rfl
  | cons b c ih =>
    rw [List.cons_append, followTree, followTree]
    split
    · exact ih _
    · rfl

/-- No path continues below a leaf. -/
theorem followTree_leaf {i w m : Nat} {c : Code} (hk : nodes[k]? = some (.leaf i w))
    (h : followTree nodes k c = some m) : c = [] := by
  cases c with
  | nil => rfl
  | cons b c => simp [followTree, hk] at h

/-- The path `c` from node `k` ends at a leaf of symbol `i`. -/
def LeafPath (nodes : List EncNode) (k i : Nat) (c : Code) : Prop :=
  ∃ m w, followTree nodes k c = some m ∧ nodes[m]? = some (EncNode.leaf i w)

theorem LeafPath.cons {l r w i : Nat} {b : Bit} {c : Code}
    (hk : nodes[k]? = some (.internal l r w)) (h : LeafPath nodes (if b then r else l) i c) :
    LeafPath nodes k i (b :: c) := by
  obtain ⟨m, v, hc, hm⟩ := h
  exact ⟨m, v, (followTree_cons hk b c).trans hc, hm⟩

/-- Below an internal node no path to a leaf is empty. -/
theorem LeafPath.ne_nil {l r w i : Nat} {c : Code} (h : LeafPath nodes k i c)
    (hk : nodes[k]? = some (.internal l r w)) : c ≠ [] := by
  rintro rfl
  obtain ⟨m, v, hc, hm⟩ := h
  cases hc
  cases hk.symm.trans hm

/-- No path to a leaf begins the path to another (43_code_assigner R203): it ends at a leaf, below
which no path goes on. -/
theorem LeafPath.index_eq_of_prefix {i j : Nat} {c d : Code} (hc : LeafPath nodes k i c)
    (hd : LeafPath nodes k j d) (h : c <+: d) : i = j := by
  obtain ⟨t, rfl⟩ := h
  obtain ⟨m, v, hm, hi⟩ := hc
  obtain ⟨m', v', hm', hj⟩ := hd
  rw [followTree_append, hm, Option.bind_some] at hm'
  obtain rfl := followTree_leaf hi hm'
  cases hm'
  cases hi.symm.trans hj
  rfl

/-! ### The walk of the tree (43_code_assigner R200) -/

theorem leafPaths_of_leaf {i w : Nat} (h : nodes[k]? = some (.leaf i w)) (fuel : Nat)
    (path : Code) : leafPaths nodes (fuel + 1) k path = [(i, path)] := by
  rw [leafPaths, h]

theorem leafPaths_of_internal {l r w : Nat} (h : nodes[k]? = some (.internal l r w)) (fuel : Nat)
    (path : Code) : leafPaths nodes (fuel + 1) k path =
      leafPaths nodes fuel l (path ++ [false]) ++ leafPaths nodes fuel r (path ++ [true]) := by
  rw [leafPaths, h]

theorem leafPaths_of_none (h : nodes[k]? = none) (fuel : Nat) (path : Code) :
    leafPaths nodes (fuel + 1) k path = [] := by
  rw [leafPaths, h]

/-- What the walk from node `k` finds is `PATH(k)` and then a path from `k` to a leaf. -/
theorem leafPath_of_mem_leafPaths {fuel i : Nat} {path c : Code}
    (h : (i, c) ∈ leafPaths nodes fuel k path) : ∃ d, c = path ++ d ∧ LeafPath nodes k i d := by
  induction fuel generalizing k path with
  | zero => cases h
  | succ fuel ih =>
    match hk : nodes[k]? with
    | none => rw [leafPaths_of_none hk] at h; cases h
    | some (.leaf j w) =>
      rw [leafPaths_of_leaf hk] at h
      cases List.mem_singleton.mp h
      exact ⟨[], (List.append_nil _).symm, k, w, rfl, hk⟩
    | some (.internal l r w) =>
      have step {b : Bit} (hb : (i, c) ∈ leafPaths nodes fuel (if b then r else l) (path ++ [b])) :
          ∃ d, c = path ++ d ∧ LeafPath nodes k i d := by
        obtain ⟨d, rfl, hd⟩ := ih hb
        exact ⟨b :: d, List.append_assoc _ _ _, hd.cons hk⟩
      rw [leafPaths_of_internal hk] at h
      obtain h | h := List.mem_append.mp h
      · exact step (b := false) h
      · exact step (b := true) h

theorem leafPath_of_mem_treePaths {root : Option Nat} {i : Nat} {c : Code}
    (h : (i, c) ∈ treePaths nodes root) : ∃ r, root = some r ∧ LeafPath nodes r i c := by
  cases root with
  | none => cases h
  | some r =>
    obtain ⟨d, rfl, hd⟩ := leafPath_of_mem_leafPaths h
    exact ⟨r, rfl, hd⟩

end

/-! ### The code table (43_code_assigner R200 to R203) -/

/-- The tree reaches each of the `n` leaves once, and only the tree of a single leaf has an empty
path (42_tree_builder R186). -/
structure LeafTree (n : Nat) (nodes : List EncNode) (root : Option Nat) : Prop where
  indices : ((treePaths nodes root).map Prod.fst).Perm (List.range n)
  ne_nil : n ≠ 1 → ∀ p ∈ treePaths nodes root, p.2 ≠ []

theorem Encoder.treeOk_iff {e : Encoder} :
    e.treeOk ↔ (e.state = .built ∨ e.state = .assigned ∨ e.state = .packed →
      LeafTree e.sym.length e.node e.root) :=
  forall_congr' fun _ => ⟨fun ⟨hi, hp⟩ => ⟨hi, hp⟩, fun ⟨hi, hp⟩ => ⟨hi, hp⟩⟩

theorem codeTable_one (nodes : List EncNode) (root : Option Nat) :
    codeTable 1 nodes root = [[false]] := rfl

/-- A code table of `n` codes, none of them empty and none beginning another
(43_code_assigner R203). -/
structure PrefixCodes (n : Nat) (code : List Code) : Prop where
  length : code.length = n
  ne_nil : ∀ c ∈ code, c ≠ []
  prefixFree : code.Pairwise fun a b => ¬ a <+: b ∧ ¬ b <+: a

theorem Encoder.codesOk_iff {e : Encoder} :
    e.codesOk ↔ (e.state = .assigned ∨ e.state = .packed → PrefixCodes e.sym.length e.code) :=
  forall_congr' fun _ => ⟨fun ⟨hl, hn, hp⟩ => ⟨hl, hn, hp⟩, fun ⟨hl, hn, hp⟩ => ⟨hl, hn, hp⟩⟩

section
variable {n : Nat} {nodes : List EncNode} {root : Option Nat}

/-- The code of a symbol is a path the walk found for it. -/
theorem LeafTree.codeTable_mem (h : LeafTree n nodes root) (hn : n ≠ 1) {i : Nat} (hi : i < n) :
    (i, (codeTable n nodes root).getD i []) ∈ treePaths nodes root := by
  have hfound : ((treePaths nodes root).lookup i).isSome := by
    obtain ⟨p, hp, rfl⟩ := List.mem_map.mp (h.indices.mem_iff.mpr (List.mem_range.mpr hi))
    exact List.lookup_isSome_iff.mpr ⟨p, hp, beq_self_eq_true _⟩
  obtain ⟨c, hc⟩ := Option.isSome_iff_exists.mp hfound
  have hcode : (codeTable n nodes root).getD i [] = c := by simp [codeTable, hn, hi, hc]
  rw [hcode]
  exact mem_of_lookup_eq_some hc

theorem LeafTree.leafPath_codeTable (h : LeafTree n nodes root) (hn : n ≠ 1) {i : Nat}
    (hi : i < n) :
    ∃ r, root = some r ∧ LeafPath nodes r i ((codeTable n nodes root).getD i []) :=
  leafPath_of_mem_treePaths (h.codeTable_mem hn hi)

/-- No code is empty: a single symbol has the bit 0 (43_code_assigner R202). -/
theorem LeafTree.codeTable_ne_nil (h : LeafTree n nodes root) :
    ∀ c ∈ codeTable n nodes root, c ≠ [] := by
  intro c hc
  by_cases hn : n = 1
  · subst hn
    cases List.mem_singleton.mp hc
    exact List.cons_ne_nil _ _
  · obtain ⟨i, hi, rfl⟩ := List.mem_iff_getElem.mp hc
    have hmem := h.codeTable_mem hn (hi.trans_eq (codeTable_length n nodes root))
    rw [List.getD_eq_getElem _ _ hi] at hmem
    exact h.ne_nil hn _ hmem

/-- No code begins another (43_code_assigner R203). -/
theorem LeafTree.codeTable_prefixFree (h : LeafTree n nodes root) :
    (codeTable n nodes root).Pairwise fun a b => ¬ a <+: b ∧ ¬ b <+: a := by
  by_cases hn : n = 1
  · subst hn
    exact List.pairwise_singleton _ _
  · refine List.pairwise_iff_getElem.mpr fun i j hi hj hij => ?_
    have hpath {i : Nat} (hi : i < (codeTable n nodes root).length) :
        ∃ r, root = some r ∧ LeafPath nodes r i (codeTable n nodes root)[i] := by
      rw [← List.getD_eq_getElem _ [] hi]
      exact h.leafPath_codeTable hn (hi.trans_eq (codeTable_length n nodes root))
    obtain ⟨r, hr, hci⟩ := hpath hi
    obtain ⟨r', hr', hcj⟩ := hpath hj
    cases hr.symm.trans hr'
    exact ⟨fun hp => hij.ne (hci.index_eq_of_prefix hcj hp),
      fun hp => hij.ne' (hcj.index_eq_of_prefix hci hp)⟩

theorem LeafTree.codeTable_prefixCodes (h : LeafTree n nodes root) :
    PrefixCodes n (codeTable n nodes root) :=
  ⟨codeTable_length n nodes root, h.codeTable_ne_nil, h.codeTable_prefixFree⟩

end

theorem foldl_max_length_eq (code : List Code) (m : Nat) :
    code.foldl (fun m k => max m k.length) m = m ∨
    ∃ k ∈ code, k.length = code.foldl (fun m k => max m k.length) m := by
  induction code generalizing m with
  | nil => exact .inl rfl
  | cons a code ih =>
    obtain h | ⟨k, hk, h⟩ := ih (max m a.length)
    · obtain hm | ha := max_choice m a.length
      · exact .inl (h.trans hm)
      · exact .inr ⟨a, List.mem_cons_self, (h.trans ha).symm⟩
    · exact .inr ⟨k, List.mem_cons_of_mem a hk, h⟩

/-- The longest length is the length of some code (43_code_assigner R200). -/
theorem exists_length_eq_longestCode {code : List Code} (h : code ≠ []) :
    ∃ k ∈ code, k.length = longestCode code := by
  obtain hzero | hk := foldl_max_length_eq code 0
  · obtain ⟨k, hk⟩ := List.exists_mem_of_ne_nil code h
    exact ⟨k, hk, Nat.le_antisymm (length_le_longestCode hk) (hzero.trans_le (Nat.zero_le _))⟩
  · exact hk

/-! ### The tree of ENC_BUILD (42_tree_builder R186) -/

/-- The symbol indices of the leaves below node `k`. -/
def leavesBelow (nodes : List EncNode) (k : Nat) : List Nat :=
  (leafPaths nodes nodes.length k []).map Prod.fst

theorem map_fst_treePaths (nodes : List EncNode) (root : Option Nat) :
    (treePaths nodes root).map Prod.fst = root.toList.flatMap (leavesBelow nodes) := by
  cases root with
  | none => rfl
  | some r => exact (List.flatMap_singleton _ _).symm

/-- The leaves below a node depend on neither the path to it, nor the fuel left over, nor newer
nodes. -/
theorem map_fst_leafPaths_congr {nodes nodes' : List EncNode}
    (hbelow : ∀ p l r w, nodes[p]? = some (EncNode.internal l r w) → l < p ∧ r < p)
    {k fuel fuel' : Nat} (hsame : ∀ j ≤ k, nodes'[j]? = nodes[j]?) (hf : k < fuel)
    (hf' : k < fuel') (path path' : Code) :
    (leafPaths nodes' fuel' k path').map Prod.fst = (leafPaths nodes fuel k path).map Prod.fst := by
  induction fuel generalizing k fuel' path path' with
  | zero => omega
  | succ fuel ih =>
    obtain ⟨fuel', rfl⟩ := Nat.exists_eq_add_one_of_ne_zero (Nat.ne_zero_of_lt hf')
    have hk' := hsame k le_rfl
    match hk : nodes[k]? with
    | none => rw [leafPaths_of_none hk, leafPaths_of_none (hk'.trans hk)]
    | some (.leaf i w) =>
      rw [leafPaths_of_leaf hk, leafPaths_of_leaf (hk'.trans hk)]
      rfl
    | some (.internal l r w) =>
      have hchild {j : Nat} (hj : j < k) (path path' : Code) :=
        ih (fun a ha => hsame a (ha.trans hj.le)) (by omega : j < fuel) (by omega : j < fuel')
          path path'
      obtain ⟨hl, hr⟩ := hbelow k l r w hk
      rw [leafPaths_of_internal hk, leafPaths_of_internal (hk'.trans hk), List.map_append,
        List.map_append, hchild hl, hchild hr]

section
variable {n : Nat} {freq : List Nat} {nodes : List EncNode} {q : List Nat} {x y : Nat}

/-- A merge keeps the leaves below the older nodes. -/
theorem Forest.map_fst_leafPaths_mergeNodes (h : Forest n freq nodes q) {k fuel : Nat}
    (hk : k < nodes.length) (hf : k < fuel) (path : Code) :
    (leafPaths (mergeNodes nodes x y) fuel k path).map Prod.fst = leavesBelow nodes k :=
  map_fst_leafPaths_congr (fun p l r w hp => ⟨(h.below p l r w hp).1, (h.below p l r w hp).2.1⟩)
    (fun _ hj => getElem?_mergeNodes_lt (hj.trans_lt hk)) hk hf [] path

/-- The merged node has the leaves of the two nodes it joins. -/
theorem Forest.leavesBelow_mergeNodes_length (h : Forest n freq nodes q) (hx : x < nodes.length)
    (hy : y < nodes.length) :
    leavesBelow (mergeNodes nodes x y) nodes.length =
      leavesBelow nodes y ++ leavesBelow nodes x := by
  rw [leavesBelow, length_mergeNodes, leafPaths_of_internal getElem?_mergeNodes_length,
    List.map_append, h.map_fst_leafPaths_mergeNodes hy hy, h.map_fst_leafPaths_mergeNodes hx hx]

/-- Each merge moves the leaves of the trees of the queue and loses none. -/
theorem Forest.flatMap_leavesBelow_merge (h : Forest n freq nodes q) (hx : LeastOf nodes q x)
    (hy : LeastOf nodes (q.erase x) y) :
    ((mergeQueue nodes q x y).flatMap (leavesBelow (mergeNodes nodes x y))).Perm
      (q.flatMap (leavesBelow nodes)) := by
  have hrest : ((q.erase x).erase y).flatMap (leavesBelow (mergeNodes nodes x y)) =
      ((q.erase x).erase y).flatMap (leavesBelow nodes) := by
    refine List.flatMap_congr fun k hk => ?_
    have hlt := h.ids k (List.mem_of_mem_erase (List.mem_of_mem_erase hk))
    exact h.map_fst_leafPaths_mergeNodes hlt (by rw [length_mergeNodes]; omega) []
  have hnew := h.leavesBelow_mergeNodes_length (h.ids x hx.mem)
    (h.ids y (List.mem_of_mem_erase hy.mem))
  refine List.Perm.trans ?_ ((perm_removed hx hy).flatMap_right (leavesBelow nodes)).symm
  rw [mergeQueue, List.flatMap_append, hrest, List.flatMap_singleton, hnew, List.perm_iff_count]
  intro i
  simp only [List.flatMap_cons, List.count_append]
  omega

end

theorem leavesBelow_leafNodes {n i : Nat} (freq : List Nat) (h : i < n) :
    leavesBelow (leafNodes n freq) i = [i] := by
  obtain ⟨n, rfl⟩ := Nat.exists_eq_add_one_of_ne_zero (Nat.ne_zero_of_lt h)
  rw [leavesBelow, leafNodes_length, leafPaths_of_leaf (leafNodes_getElem? (n + 1) freq h)]
  rfl

theorem flatMap_leavesBelow_leafNodes (n : Nat) (freq : List Nat) :
    (List.range n).flatMap (leavesBelow (leafNodes n freq)) = List.range n :=
  (List.flatMap_congr fun _ hi => leavesBelow_leafNodes freq (List.mem_range.mp hi)).trans
    (List.flatMap_singleton' _)

/-- The root is all that the merge loop leaves in the queue. -/
theorem buildTree_root_toList (n : Nat) (freq : List Nat) :
    (buildTree n freq).2.toList = (mergeAll n (leafNodes n freq) (List.range n)).2 :=
  List.take_one.symm.trans
    (List.take_of_length_le (mergeAll_queue_length n (leafNodes n freq) (List.range n) (by simp)))

/-- The tree of ENC_BUILD reaches each leaf once (42_tree_builder R186). -/
theorem buildTree_leafTree (n : Nat) (freq : List Nat) :
    LeafTree n (buildTree n freq).1 (buildTree n freq).2 := by
  refine ⟨?indices, fun hn p hp => ?ne_nil⟩
  case indices =>
    rw [map_fst_treePaths, buildTree_root_toList]
    exact (mergeAll_induction (P := fun nodes q => Forest n freq nodes q ∧
        (q.flatMap (leavesBelow nodes)).Perm (List.range n))
      (fun _ _ _ _ hx hy h => ⟨h.1.merge hx hy, (h.1.flatMap_leavesBelow_merge hx hy).trans h.2⟩)
      n _ _ ⟨forest_leafNodes n freq, .of_eq (flatMap_leavesBelow_leafNodes n freq)⟩).2
  case ne_nil =>
    obtain ⟨r, hr, hpath⟩ := leafPath_of_mem_treePaths hp
    have hpos : n ≠ 0 := by rintro rfl; cases hr
    have hlen := buildTree_length_eq hpos freq
    cases hr.symm.trans (buildTree_root hpos freq)
    obtain ⟨_, _, _, hroot⟩ := (buildTree_forest n freq).internals
      ((buildTree n freq).1.length - 1) (by omega) (by omega)
    exact hpath.ne_nil hroot

/-! ### Every step keeps the tree and the codes -/

/-- The moves that end in BUILT, ASSIGNED or PACKED: none, and the stages that follow the text. -/
theorem EncMove.built_cases {c : Config} {e e' : Encoder} {w w' : Word} (h : EncMove c e w e' w')
    (hs' : e'.state = .built ∨ e'.state = .assigned ∨ e'.state = .packed) :
    e' = e ∨
    e' = { e with node := (buildTree e.sym.length e.freq).1,
                  root := (buildTree e.sym.length e.freq).2, state := .built } ∨
    (e.state = .built ∧
      e' = { e with code := codeTable e.sym.length e.node e.root, state := .assigned }) ∨
    (e.state = .assigned ∧
      e' = { e with bytes := packBits (paddedBits e),
                    pad := padCount (streamBits e.code e.stream).length, state := .packed }) := by
  cases h with
  | keep => exact .inl rfl
  | reset | idle | fail | start => simp [Encoder.empty, freshEncoder] at hs'
  | push a v _ hs hb =>
    obtain ⟨cp, hp⟩ := encPushBody_ok hb
    obtain ⟨hstate, -⟩ := pushCodePoint_frame hp
    simp [hstate, hs] at hs'
  | finish v _ hs hb =>
    obtain ⟨e₁, -, rfl⟩ := encEndBody_ok hb
    simp at hs'
  | build v _ hs hb => exact .inr (.inl (encBuildBody_ok hb))
  | assign v _ hs hb => exact .inr (.inr (.inl ⟨hs, (encAssignBody_ok hb).2⟩))
  | pack v _ hs hb => exact .inr (.inr (.inr ⟨hs, (encPackBody_ok hb).2⟩))

theorem EncMove.treeOk {c : Config} {e e' : Encoder} {w w' : Word} (h : EncMove c e w e' w')
    (ht : e.treeOk) : e'.treeOk := by
  refine Encoder.treeOk_iff.mpr fun hs' => ?_
  rw [Encoder.treeOk_iff] at ht
  obtain rfl | rfl | ⟨hs, rfl⟩ | ⟨hs, rfl⟩ := h.built_cases hs'
  · exact ht hs'
  · exact buildTree_leafTree e.sym.length e.freq
  · exact ht (.inl hs)
  · exact ht (.inr (.inl hs))

theorem EncMove.codesOk {c : Config} {e e' : Encoder} {w w' : Word} (h : EncMove c e w e' w')
    (ht : e.treeOk) (hc : e.codesOk) : e'.codesOk := by
  refine Encoder.codesOk_iff.mpr fun hs' => ?_
  rw [Encoder.treeOk_iff] at ht
  rw [Encoder.codesOk_iff] at hc
  obtain rfl | rfl | ⟨hs, rfl⟩ | ⟨hs, rfl⟩ := h.built_cases (.inr hs')
  · exact hc hs'
  · simp at hs'
  · exact (ht (.inl hs)).codeTable_prefixCodes
  · exact hc (.inl hs)

/-! ### ENC_ASSIGN (43_code_assigner R200) -/

theorem encAssignBody_of_le {c : Config} {e : Encoder}
    (h : longestCode (codeTable e.sym.length e.node e.root) ≤ c.maxCodeLen) :
    encAssignBody c e = .ok (countWord (longestCode (codeTable e.sym.length e.node e.root)),
      { e with code := codeTable e.sym.length e.node e.root, state := .assigned }) :=
  if_neg (Nat.not_lt.mpr h)

theorem encAssignBody_of_lt {c : Config} {e : Encoder}
    (h : c.maxCodeLen < longestCode (codeTable e.sym.length e.node e.root)) :
    encAssignBody c e = .error .eCapacity :=
  if_pos h

/-! ### The statements -/

/-- Settles O35: each move of the encoder keeps the tree, and the codes that ENC_ASSIGN takes from
it. -/
theorem everyStepKeepsCodesPrefixFree : Obligations.EveryStepKeepsCodesPrefixFree :=
  fun _ _ ht hc h => ⟨(step_encMove h).treeOk ht, (step_encMove h).codesOk ht hc⟩

/-- Settles O34: the code table is the witness, and its longest length fits or it does not. -/
theorem encAssignGivesLeafPaths : Obligations.EncAssignGivesLeafPaths := by
  refine fun s => ⟨fun hs => ?gate, fun hs hok => ?_⟩
  case gate =>
    exact (outOfStateCommandsFailWithEState .encAssign s).1 _ rfl (mt List.mem_singleton.mp hs)
  have ht := Encoder.treeOk_iff.mp hok (.inl hs)
  have hgate := List.mem_singleton.mpr hs
  refine ⟨codeTable s.enc.sym.length s.enc.node s.enc.root, _, codeTable_length _ _ _,
    fun hn => hn ▸ codeTable_one _ _, fun hn i hi => ?path, fun c hc => length_le_longestCode hc,
    fun hnil => congrArg longestCode hnil, fun hne => exists_length_eq_longestCode hne,
    fun hm => congrArg Host.Outcome.next (encCommand_ok hgate (encAssignBody_of_le hm)),
    fun hm => encCommand_failsEnc hgate (encAssignBody_of_lt hm)⟩
  case path =>
    obtain ⟨r, hr, k, w, hk, hleaf⟩ := ht.leafPath_codeTable (by omega) hi
    exact ⟨r, k, w, hr, hk, hleaf⟩

end Sys2Proof.Machine
end

section
/-! PROOFS, part 16. The bit packer (44_bit_packer R220, R222): the padding fills the last byte, and
each bit keeps its place in the packed stream. -/

namespace Sys2Proof.Machine

open Sys2Proof.Claims

/-! ### The padding count (44_bit_packer R221) -/

theorem add_padCount (n : Nat) : n + (padCount n).val = 8 * ((n + 7) / 8) := by
  have hpad : (padCount n).val = (8 - n % 8) % 8 := rfl
  omega

theorem paddedBits_length (e : Encoder) :
    (paddedBits e).length = (streamBits e.code e.stream).length +
      (padCount (streamBits e.code e.stream).length).val := by
  rw [paddedBits, List.length_append, List.length_replicate]

theorem packBits_paddedBits_length (e : Encoder) :
    (packBits (paddedBits e)).length = ((streamBits e.code e.stream).length + 7) / 8 := by
  rw [packBits_length, paddedBits_length, add_padCount, Nat.mul_div_cancel_left _ (by decide)]

theorem eight_mul_packBits_paddedBits_length (e : Encoder) :
    8 * (packBits (paddedBits e)).length = (streamBits e.code e.stream).length +
      (padCount (streamBits e.code e.stream).length).val := by
  rw [packBits_paddedBits_length, add_padCount]

/-- The padding bits are zero (44_bit_packer R222): past the codes every bit is the default. -/
theorem getD_paddedBits (e : Encoder) (p : Nat) :
    (paddedBits e).getD p false = (streamBits e.code e.stream).getD p false := by
  obtain hp | hp := Nat.lt_or_ge p (streamBits e.code e.stream).length
  · exact List.getD_append _ _ _ _ hp
  · rw [paddedBits, List.getD_append_right _ _ _ _ hp, List.getD_eq_default _ _ hp, List.getD,
      List.getElem?_replicate]
    split <;> rfl

/-! ### The bit order (20_memory R78) -/

theorem getLsbD_byteOfBits (b7 b6 b5 b4 b3 b2 b1 b0 : Bit) {p : Nat} (hp : p < 8) :
    (byteOfBits b7 b6 b5 b4 b3 b2 b1 b0).getLsbD (7 - p) =
      [b7, b6, b5, b4, b3, b2, b1, b0].getD p false := by
  simp only [byteOfBits, BitVec.getLsbD_append]
  interval_cases p <;> simp

theorem packedBit_cons_of_lt (b : Byte) (bytes : List Byte) {p : Nat} (hp : p < 8) :
    packedBit (b :: bytes) p = b.getLsbD (7 - p) := by
  rw [packedBit, Nat.div_eq_of_lt hp, Nat.mod_eq_of_lt hp, List.getD_cons_zero]

theorem packedBit_cons_add_eight (b : Byte) (bytes : List Byte) (p : Nat) :
    packedBit (b :: bytes) (p + 8) = packedBit bytes p := by
  simp [packedBit]

/-- Bit `p` of the packed stream is bit `p` of the sequence, as far as there are bytes. -/
theorem packedBit_packBits (bits : List Bit) {p : Nat} (hp : p < 8 * (packBits bits).length) :
    packedBit (packBits bits) p = bits.getD p false := by
  induction bits using packBits.induct generalizing p with
  | case1 b7 b6 b5 b4 b3 b2 b1 b0 rest ih =>
    rw [packBits_cons] at hp ⊢
    obtain hlow | ⟨q, rfl⟩ := (Nat.lt_or_ge p 8).imp_right Nat.exists_eq_add_of_le'
    · rw [packedBit_cons_of_lt _ _ hlow, getLsbD_byteOfBits _ _ _ _ _ _ _ _ hlow]
      exact (List.getD_append _ rest _ _ hlow).symm
    · rw [packedBit_cons_add_eight]
      exact ih (by rw [List.length_cons] at hp; omega)
  | case2 bits hshort =>
    have hnil : packBits bits = [] := by rw [packBits]; exact hshort
    rw [hnil] at hp
    exact absurd hp (Nat.not_lt_zero p)

/-- The packed stream of an encoder is the bits of its codes, then zeros. -/
theorem packedBit_packBits_paddedBits (e : Encoder) {p : Nat}
    (hp : p < 8 * (packBits (paddedBits e)).length) :
    packedBit (packBits (paddedBits e)) p = (streamBits e.code e.stream).getD p false :=
  (packedBit_packBits _ hp).trans (getD_paddedBits e p)

/-! ### ENC_PACK (44_bit_packer R220) -/

theorem encPackBody_of_le {c : Config} {e : Encoder}
    (h : (packBits (paddedBits e)).length ≤ c.byteCap) :
    encPackBody c e = .ok (countWord (packBits (paddedBits e)).length,
      { e with bytes := packBits (paddedBits e),
               pad := padCount (streamBits e.code e.stream).length, state := .packed }) := by
  rw [packBits_length, paddedBits_length] at h ⊢
  exact if_neg (Nat.not_lt.mpr h)

theorem encPackBody_of_lt {c : Config} {e : Encoder}
    (h : c.byteCap < (packBits (paddedBits e)).length) :
    encPackBody c e = .error .eCapacity := by
  rw [packBits_length, paddedBits_length] at h
  exact if_pos h

/-! ### The statement -/

/-- Settles O36: the bytes of the padded bits fit or they do not, and they hold those bits in
order. -/
theorem encPackPacksMostSignificantBitFirst :
    Obligations.EncPackPacksMostSignificantBitFirst := by
  refine fun s => ⟨fun hs => ?gate, fun hs hcap => ?capacity, fun hs hcap => ?packed⟩
  case gate =>
    exact (outOfStateCommandsFailWithEState .encPack s).1 _ rfl (mt List.mem_singleton.mp hs)
  case capacity =>
    have hlt : s.cfg.byteCap < (packBits (paddedBits s.enc)).length :=
      hcap.trans_eq (packBits_paddedBits_length s.enc).symm
    exact encCommand_failsEnc (List.mem_singleton.mpr hs) (encPackBody_of_lt hlt)
  case packed =>
    have hle : (packBits (paddedBits s.enc)).length ≤ s.cfg.byteCap :=
      (packBits_paddedBits_length s.enc).trans_le hcap
    have hsize := eight_mul_packBits_paddedBits_length s.enc
    have hfit : (streamBits s.enc.code s.enc.stream).length ≤
        8 * (packBits (paddedBits s.enc)).length := (Nat.le_add_right _ _).trans_eq hsize.symm
    exact ⟨_, congrArg Host.Outcome.next
        (encCommand_ok (List.mem_singleton.mpr hs) (encPackBody_of_le hle)),
      ⟨rfl, rfl, rfl⟩, ⟨rfl, rfl, rfl, rfl, rfl, rfl⟩, rfl, rfl, rfl, rfl, hsize,
      fun p hp => packedBit_packBits_paddedBits s.enc (hp.trans_le hfit),
      fun p hp hlt => (packedBit_packBits_paddedBits s.enc hlt).trans (List.getD_eq_default _ _ hp)⟩

end Sys2Proof.Machine
end

section
/-! PROOFS, part 17. The encoder readouts (45_encoder_readout R240 to R250): a readout reports a
count, or the element its operands name, or E_INDEX where there is none. -/

namespace Sys2Proof.Machine

open Sys2Proof.Claims

/-! ### The readout frame (45_encoder_readout R240) -/

section
variable {states : List EncState} {read : Encoder → Except ResultCode Word} {s : State}

theorem encReadout_ok {v : Word} (h : s.enc.state ∈ states) (hr : read s.enc = .ok v) :
    encReadout states read s = s.setReport v .ok .readout :=
  encCommand_ok h (except_map_ok.mpr ⟨v, hr, rfl⟩)

theorem encReadout_failsEnc {rc : ResultCode} (h : s.enc.state ∈ states)
    (hr : read s.enc = .error rc) :
    failsEnc s (.next (encReadout states read s)) rc .readout :=
  encCommand_failsEnc h (congrArg (Except.map _) hr)

theorem encReadout_gate_failsEnc (h : s.enc.state ∉ states) :
    failsEnc s (.next (encReadout states read s)) .eState .readout := by
  rw [encReadout, encCommand_gate h]
  exact raise_failsEnc .eState .readout s

end

/-- A command that is the readout of one value. -/
theorem encReads_of_exec {i : Instr} {states : List EncState} {value : Encoder → Nat}
    (h : ∀ s, exec i s = .next (encReadout states (fun e => .ok (countWord (value e))) s)) :
    encReads i states value := by
  intro s
  rw [h s]
  exact ⟨fun hs => congrArg Host.Outcome.next (encReadout_ok hs rfl), encReadout_gate_failsEnc⟩

/-! ### Elements that may be missing (45_encoder_readout R240) -/

/-- An element, or E_INDEX where there is none. -/
def orIndexError {α : Type} (o : Option α) : Except ResultCode α := o.elim (.error .eIndex) .ok

theorem indexOperand_eq_orIndexError {α : Type} (l : List α) (a : Word) :
    indexOperand l a = orIndexError l[a.toNat]? := by
  unfold indexOperand
  cases l[a.toNat]? <;> rfl

theorem map_orIndexError {α β : Type} (f : α → β) (o : Option α) :
    (orIndexError o).map f = orIndexError (o.map f) := by
  cases o <;> rfl

theorem bind_orIndexError {α β : Type} (f : α → Option β) (o : Option α) :
    ((orIndexError o).bind fun v => orIndexError (f v)) = orIndexError (o.bind f) := by
  cases o <;> rfl

/-- The index of a table read that uses another list is checked against the symbol table. -/
theorem bind_getElem?_eq_ite {α β : Type} (l : List α) (i : Nat) (o : Option β) :
    (l[i]?.bind fun _ => o) = if i < l.length then o else none := by
  split
  · next h => rw [List.getElem?_eq_getElem h]; rfl
  · next h => rw [List.getElem?_eq_none (Nat.not_lt.mp h)]; rfl

/-- A computation that only needs its operand to be an index of `l`. -/
theorem map_const_indexOperand {α β : Type} (l : List α) (a : Word) (v : β) :
    ((indexOperand l a).map fun _ => v) =
      orIndexError (if a.toNat < l.length then some v else none) := by
  rw [indexOperand_eq_orIndexError, map_orIndexError, ← bind_getElem?_eq_ite, Option.map_eq_bind]
  rfl

/-- A command that is the readout of an element named by its operands. -/
theorem encReadsAt_of_exec {i : Instr} {states : List EncState}
    {value : Encoder → Nat → Nat → Option Nat}
    (h : ∀ s, ∃ read, exec i s = .next (encReadout states read s) ∧
      read s.enc = orIndexError ((value s.enc s.arg0.toNat s.arg1.toNat).map countWord)) :
    encReadsAt i states value := by
  intro s
  obtain ⟨read, hx, hr⟩ := h s
  rw [hx]
  refine ⟨fun hs v hv => ?found, fun hs hv => ?missing, encReadout_gate_failsEnc⟩
  case found => exact congrArg Host.Outcome.next (encReadout_ok hs (by rw [hr, hv]; rfl))
  case missing => exact encReadout_failsEnc hs (by rw [hr, hv]; rfl)

/-! ### The words read -/

theorem countWord_toNat (w : Word) : countWord w.toNat = w := BitVec.ofNat_toNat 32 w

theorem countWord_toNat_byte (b : Byte) : countWord b.toNat = byteWord b := BitVec.ofNat_toNat 32 b

theorem countWord_toNat_bit (b : Bit) : countWord b.toNat = bitWord b := by
  cases b <;> rfl

/-! ### The statements -/

/-- Settles O37: each of the four commands is the readout of one count. -/
theorem encoderCountReadouts : Obligations.EncoderCountReadouts :=
  ⟨encReads_of_exec fun _ => rfl, encReads_of_exec fun _ => rfl, encReads_of_exec fun _ => rfl,
    encReads_of_exec fun _ => rfl⟩

/-- Settles O38: each of the six commands is the readout of an element that may be missing. -/
theorem encoderIndexedReadouts : Obligations.EncoderIndexedReadouts := by
  refine ⟨encReadsAt_of_exec fun s => ⟨_, rfl, ?symlen⟩,
    encReadsAt_of_exec fun s => ⟨_, rfl, ?symcp⟩, encReadsAt_of_exec fun s => ⟨_, rfl, ?freq⟩,
    encReadsAt_of_exec fun s => ⟨_, rfl, ?codelen⟩, encReadsAt_of_exec fun s => ⟨_, rfl, ?codebit⟩,
    encReadsAt_of_exec fun s => ⟨_, rfl, ?byte⟩⟩
  case symlen => rw [indexOperand_eq_orIndexError, map_orIndexError, Option.map_map]; rfl
  case symcp =>
    simp only [indexOperand_eq_orIndexError, bind_orIndexError, Option.map_map,
      Function.comp_def, countWord_toNat, Option.map_id']
  case freq | codelen => rw [map_const_indexOperand, apply_ite (Option.map countWord)]; rfl
  case codebit =>
    simp only [indexOperand_eq_orIndexError, map_orIndexError, bind_orIndexError,
      bind_getElem?_eq_ite, apply_ite (Option.map countWord), Option.map_map, Function.comp_def,
      countWord_toNat_bit, Option.map_none]
  case byte =>
    simp only [indexOperand_eq_orIndexError, map_orIndexError, Option.map_map, Function.comp_def,
      countWord_toNat_byte]

end Sys2Proof.Machine
end

section
/-! PROOFS, part 18. The paths and entries of the decode tree (10_state R59): what a path from the
root leads to, and where a code leaves the tree (46_table_loader R274). -/

namespace Sys2Proof.Machine

/-! ### Following a path -/

theorem follow_append (nodes : List DecNode) (k : Nat) (p q : Code) :
    follow nodes k (p ++ q) = (follow nodes k p).bind fun m => follow nodes m q := by
  induction p generalizing k with
  | nil => rfl
  | cons b p ih =>
    rw [List.cons_append, follow, follow]
    cases childOf nodes k b with
    | none => rfl
    | some m => exact ih m

theorem follow_concat (nodes : List DecNode) (k : Nat) (p : Code) (b : Bit) :
    follow nodes k (p ++ [b]) = (follow nodes k p).bind fun m => childOf nodes m b := by
  rw [follow_append]
  congr 1
  funext m
  rw [follow]
  cases childOf nodes m b <;> rfl

theorem follow_cons_of_child {nodes : List DecNode} {k m : Nat} {b : Bit}
    (h : childOf nodes k b = some m) (p : Code) : follow nodes k (b :: p) = follow nodes m p := by
  simp only [follow, h]

/-- A path through a missing child leads nowhere. -/
theorem follow_eq_none_of_free {nodes : List DecNode} {p : Code} {b : Bit} {k : Nat}
    (hp : follow nodes 0 p = some k) (hfree : childOf nodes k b = none) (q : Code) :
    follow nodes 0 (p ++ b :: q) = none := by
  rw [follow_append, hp, Option.bind_some, follow, hfree]

/-- The start of a path that leads to a node leads to a node. -/
theorem exists_follow_of_prefix {nodes : List DecNode} {k m : Nat} {p q : Code} (hpq : p <+: q)
    (h : follow nodes k q = some m) : ∃ i, follow nodes k p = some i := by
  obtain ⟨r, rfl⟩ := hpq
  rw [follow_append] at h
  obtain ⟨i, hi, -⟩ := Option.bind_eq_some_iff.mp h
  exact ⟨i, hi⟩

section
variable {n : Nat} {nodes : List DecNode} {tip : Option Nat}

/-- Every bit of a path leads to a larger id. -/
theorem PathTree.add_length_le (h : PathTree n nodes tip) {k m : Nat} {p : Code}
    (hp : follow nodes k p = some m) : k + p.length ≤ m := by
  induction p generalizing k with
  | nil => cases hp; rfl
  | cons b p ih =>
    cases hc : childOf nodes k b with
    | none => rw [follow, hc] at hp; cases hp
    | some i =>
      rw [follow_cons_of_child hc] at hp
      have hlt := (h.child k b i hc).1
      have hle := ih hp
      rw [List.length_cons]
      omega

theorem PathTree.follow_lt (h : PathTree n nodes tip) {k m : Nat} {p : Code}
    (hk : k < nodes.length) (hp : follow nodes k p = some m) : m < nodes.length := by
  induction p generalizing k with
  | nil => cases hp; exact hk
  | cons b p ih =>
    cases hc : childOf nodes k b with
    | none => rw [follow, hc] at hp; cases hp
    | some i =>
      rw [follow_cons_of_child hc] at hp
      exact ih (h.child k b i hc).2.1 hp

/-- A node has one path from the root. -/
theorem PathTree.path_unique (h : PathTree n nodes tip) {k : Nat} {p q : Code}
    (hp : follow nodes 0 p = some k) (hq : follow nodes 0 q = some k) : p = q := by
  induction p using List.reverseRecOn generalizing k q with
  | nil =>
    cases hp
    have hle := h.add_length_le hq
    exact (List.length_eq_zero_iff.mp (by omega)).symm
  | append_singleton p b ih =>
    obtain rfl | ⟨q, b', rfl⟩ := List.eq_nil_or_concat q
    · cases hq
      have hle := h.add_length_le hp
      simp at hle
    · rw [List.concat_eq_append] at hq ⊢
      rw [follow_concat] at hp hq
      obtain ⟨i, hi, hib⟩ := Option.bind_eq_some_iff.mp hp
      obtain ⟨i', hi', hib'⟩ := Option.bind_eq_some_iff.mp hq
      obtain ⟨rfl, rfl⟩ := h.unique i i' b b' k hib hib'
      rw [ih hi hi']

/-- A leaf has no path below it. -/
theorem PathTree.follow_leaf (h : PathTree n nodes tip) {k j : Nat} (hl : leafOf nodes k = some j)
    (b : Bit) (q : Code) : follow nodes k (b :: q) = none := by
  cases hc : childOf nodes k b with
  | none => rw [follow, hc]
  | some i =>
    have hnone := (h.child k b i hc).2.2
    rw [hnone] at hl
    cases hl

/-- In a finished tree every node but the root is a leaf or has one below it (46_table_loader
R276). -/
theorem PathTree.exists_leaf_below (h : PathTree n nodes none) {k : Nat} (hk : k < nodes.length)
    (h0 : k ≠ 0) : ∃ q m j, follow nodes k q = some m ∧ leafOf nodes m = some j := by
  induction hd : nodes.length - k using Nat.strong_induction_on generalizing k with
  | _ _ ih =>
    have below {b : Bit} (hc : (childOf nodes k b).isSome) :
        ∃ q m j, follow nodes k q = some m ∧ leafOf nodes m = some j := by
      obtain ⟨i, hi⟩ := Option.isSome_iff_exists.mp hc
      obtain ⟨hki, hlen, -⟩ := h.child k b i hi
      obtain ⟨q, m, j, hq, hj⟩ := ih (nodes.length - i) (by omega) hlen (by omega) rfl
      exact ⟨b :: q, m, j, (follow_cons_of_child hi q).trans hq, hj⟩
    obtain hl | hc | hc := h.used k hk h0 (by simp)
    · obtain ⟨j, hj⟩ := Option.isSome_iff_exists.mp hl
      exact ⟨[], k, j, rfl, hj⟩
    · exact below hc
    · exact below hc

end

/-! ### The leaf at the end of a path -/

/-- The entry index of the leaf a path from the root ends at. -/
def leafAt (nodes : List DecNode) (p : Code) : Option Nat := (follow nodes 0 p).bind (leafOf nodes)

theorem leafAt_eq_some {nodes : List DecNode} {p : Code} {j : Nat} :
    leafAt nodes p = some j ↔ ∃ k, follow nodes 0 p = some k ∧ leafOf nodes k = some j :=
  Option.bind_eq_some_iff

/-- In a finished tree the paths that lead to a node are the root's and the starts of the paths to
leaves. -/
theorem PathTree.follow_isSome_iff {n : Nat} {nodes : List DecNode} (h : PathTree n nodes none)
    (p : Code) :
    (follow nodes 0 p).isSome ↔ p = [] ∨ ∃ q, p <+: q ∧ (leafAt nodes q).isSome := by
  constructor
  · intro hp
    obtain ⟨k, hk⟩ := Option.isSome_iff_exists.mp hp
    refine or_iff_not_imp_left.mpr fun hne => ?_
    have hpos := List.length_pos_iff.mpr hne
    have hle := h.add_length_le hk
    obtain ⟨q, m, j, hq, hj⟩ := h.exists_leaf_below (h.follow_lt h.pos hk) (by omega)
    have hpq : follow nodes 0 (p ++ q) = some m := by rw [follow_append, hk]; exact hq
    exact ⟨p ++ q, List.prefix_append p q,
      Option.isSome_iff_exists.mpr ⟨j, leafAt_eq_some.mpr ⟨m, hpq, hj⟩⟩⟩
  · rintro (rfl | ⟨q, hpq, hq⟩)
    · rfl
    · obtain ⟨j, hj⟩ := Option.isSome_iff_exists.mp hq
      obtain ⟨k, hk, -⟩ := leafAt_eq_some.mp hj
      exact Option.isSome_iff_exists.mpr (exists_follow_of_prefix hpq hk)

/-! ### The symbol at the end of a path -/

/-- The symbol of the entry whose leaf a path from the root ends at. -/
def Decoder.entryAt (d : Decoder) (p : Code) : Option Symbol :=
  (leafAt d.node p).bind fun j => d.sym[j]?

theorem Decoder.entryAt_eq_some {d : Decoder} {p : Code} {y : Symbol} :
    d.entryAt p = some y ↔ ∃ j, leafAt d.node p = some j ∧ d.sym[j]? = some y :=
  Option.bind_eq_some_iff

section
variable {d : Decoder} {tip : Option Nat} (h : PathTree d.sym.length d.node tip)
include h

theorem PathTree.holdsEntry_iff {c : Code} {y : Symbol} :
    d.holdsEntry c y ↔ d.entryAt c = some y := by
  rw [Decoder.entryAt_eq_some]
  constructor
  · rintro ⟨-, k, j, hk, hj, hy⟩
    exact ⟨j, leafAt_eq_some.mpr ⟨k, hk, hj⟩, hy⟩
  · rintro ⟨j, hj, hy⟩
    obtain ⟨k, hk, hl⟩ := leafAt_eq_some.mp hj
    refine ⟨?_, k, j, hk, hl, hy⟩
    rintro rfl
    cases hk
    rw [h.root] at hl
    cases hl

/-- A leaf names an entry of the table, so it gives that entry's symbol (10_state R59). -/
theorem PathTree.entryAt_of_follow {p : Code} {k : Nat} (hk : follow d.node 0 p = some k) :
    d.entryAt p = (leafOf d.node k).map fun j => d.sym.getD j [] := by
  rw [Decoder.entryAt, leafAt, hk, Option.bind_some]
  cases hl : leafOf d.node k with
  | none => rfl
  | some j =>
    have hj := h.entry k j hl
    simp [hj]

theorem PathTree.entryAt_isSome (p : Code) : (d.entryAt p).isSome = (leafAt d.node p).isSome := by
  cases hp : follow d.node 0 p with
  | none => rw [Decoder.entryAt, leafAt, hp]; rfl
  | some k => rw [h.entryAt_of_follow hp, leafAt, hp]; exact Option.isSome_map

end

/-! ### Where a code leaves the tree (46_table_loader R274) -/

/-- The code leaves the tree at node `k`, after its bits `p` and before its bit `b`. -/
structure LeavesTree (nodes : List DecNode) (code p : Code) (b : Bit) (rest : Code) (k : Nat) :
    Prop where
  code_eq : code = p ++ b :: rest
  path : follow nodes 0 p = some k
  inner : leafOf nodes k = none
  free : childOf nodes k b = none

/-- Some path to a leaf equals the code, is the start of it, or has it as its start. -/
def meetsLeaf (nodes : List DecNode) (code : Code) : Prop :=
  ∃ c, (leafAt nodes c).isSome ∧ (c <+: code ∨ code <+: c)

theorem follow_of_descend_ok {nodes : List DecNode} {code : Code} {k₀ d₀ k d : Nat}
    (h : descend nodes k₀ d₀ code = .ok (k, d)) :
    d₀ ≤ d ∧ follow nodes k₀ (code.take (d - d₀)) = some k := by
  induction code generalizing k₀ d₀ with
  | nil => cases h
  | cons b rest ih =>
    unfold descend at h
    split at h
    · cases h
      exact ⟨le_rfl, by rw [Nat.sub_self]; rfl⟩
    · next m hc =>
      split at h
      · cases h
      · obtain ⟨hle, hf⟩ := ih h
        refine ⟨by omega, ?_⟩
        rw [show d - d₀ = (d - (d₀ + 1)) + 1 by omega, List.take_succ_cons,
          follow_cons_of_child hc, hf]

/-- DESCEND fails with E_TABLE, at a leaf or at the end of the code. -/
theorem descend_error {nodes : List DecNode} {code : Code} {k d : Nat} {rc : ResultCode}
    (h : descend nodes k d code = .error rc) :
    rc = .eTable ∧
    ((∃ c m, c <+: code ∧ follow nodes k c = some m ∧ (leafOf nodes m).isSome) ∨
      (follow nodes k code).isSome) := by
  induction code generalizing k d with
  | nil => cases h; exact ⟨rfl, .inr rfl⟩
  | cons b rest ih =>
    unfold descend at h
    split at h
    · cases h
    · next m hc =>
      split at h
      · next hm =>
        cases h
        exact ⟨rfl, .inl ⟨[b], m, ⟨rest, rfl⟩, follow_cons_of_child hc [], hm⟩⟩
      · obtain ⟨hrc, ⟨c, i, hpre, hi, hl⟩ | hf⟩ := ih h
        · exact ⟨hrc, .inl ⟨b :: c, i, (List.prefix_cons_inj b).mpr hpre,
            (follow_cons_of_child hc c).trans hi, hl⟩⟩
        · exact ⟨hrc, .inr (by rwa [follow_cons_of_child hc])⟩

section
variable {n : Nat} {nodes : List DecNode} {code : Code}

/-- A code that leaves the tree meets no leaf: none lies on its path, and none below its end. -/
theorem LeavesTree.not_meetsLeaf {tip : Option Nat} {p rest : Code} {b : Bit} {k : Nat}
    (hx : LeavesTree nodes code p b rest k) (h : PathTree n nodes tip) :
    ¬ meetsLeaf nodes code := by
  rintro ⟨c, hc, hpre⟩
  obtain ⟨j, hj⟩ := Option.isSome_iff_exists.mp hc
  obtain ⟨m, hm, hl⟩ := leafAt_eq_some.mp hj
  have beyond (hb : p ++ [b] <+: c) : False := by
    obtain ⟨i, hi⟩ := exists_follow_of_prefix hb hm
    rw [follow_eq_none_of_free hx.path hx.free] at hi
    cases hi
  have hb : p ++ [b] <+: code := ⟨rest, by rw [hx.code_eq, List.append_assoc]; rfl⟩
  obtain hpre | hpre := hpre
  · obtain hcb | hbc := List.prefix_or_prefix_of_prefix hpre hb
    · obtain rfl | ⟨q, rfl⟩ := List.prefix_concat_iff.mp hcb
      · exact beyond List.prefix_rfl
      · have hp := hx.path
        rw [follow_append, hm, Option.bind_some] at hp
        cases q with
        | nil => cases hp; rw [hx.inner] at hl; cases hl
        | cons b' q => rw [h.follow_leaf hl] at hp; cases hp
    · exact beyond hbc
  · exact beyond (hb.trans hpre)

/-- DESCEND answers where a code leaves the tree. -/
theorem PathTree.leavesTree_of_descend {tip : Option Nat} {k d : Nat} (h : PathTree n nodes tip)
    (hd : descend nodes 0 0 code = .ok (k, d)) :
    ∃ p b rest, LeavesTree nodes code p b rest k ∧ p.length = d := by
  obtain ⟨-, hl, b, rest, -, hdrop, hfree⟩ := descend_ok h h.pos h.root hd
  obtain ⟨-, hf⟩ := follow_of_descend_ok hd
  rw [Nat.sub_zero] at hdrop hf
  have hlen := congrArg List.length hdrop
  rw [List.length_drop, List.length_cons] at hlen
  exact ⟨code.take d, b, rest, ⟨by rw [← hdrop, List.take_append_drop], hf, hl, hfree⟩,
    by rw [List.length_take]; omega⟩

variable (h : PathTree n nodes none)
include h

/-- Where DESCEND fails, the code meets a leaf: on its way, or below its end. -/
theorem PathTree.meetsLeaf_of_descend_error {d : Nat} {rc : ResultCode} (hne : code ≠ [])
    (hd : descend nodes 0 d code = .error rc) : meetsLeaf nodes code := by
  obtain ⟨-, ⟨c, m, hpre, hm, hl⟩ | hf⟩ := descend_error hd
  · exact ⟨c, by rwa [leafAt, hm], .inl hpre⟩
  · obtain he | ⟨q, hpre, hq⟩ := (h.follow_isSome_iff code).mp hf
    · exact absurd he hne
    · exact ⟨q, hq, .inr hpre⟩

/-- A code that meets a leaf is refused. -/
theorem PathTree.descend_of_meetsLeaf (hm : meetsLeaf nodes code) :
    descend nodes 0 0 code = .error .eTable := by
  cases hd : descend nodes 0 0 code with
  | ok r =>
    obtain ⟨p, b, rest, hx, -⟩ := h.leavesTree_of_descend hd
    exact absurd hm (hx.not_meetsLeaf h)
  | error rc => rw [(descend_error hd).1]

/-- A code that meets no leaf leaves the tree. -/
theorem PathTree.descend_of_not_meetsLeaf (hne : code ≠ []) (hm : ¬ meetsLeaf nodes code) :
    ∃ p b rest k, LeavesTree nodes code p b rest k ∧
      descend nodes 0 0 code = .ok (k, p.length) := by
  cases hd : descend nodes 0 0 code with
  | ok r =>
    obtain ⟨p, b, rest, hx, hlen⟩ := h.leavesTree_of_descend hd
    exact ⟨p, b, rest, r.1, hx, by rw [hlen]⟩
  | error rc => exact absurd (h.meetsLeaf_of_descend_error hne hd) hm

end

/-! ### Inserting a path (46_table_loader R273) -/

section
variable {n : Nat} {nodes : List DecNode} {tip : Option Nat} {p : Code} {b : Bit} {k : Nat}

/-- A new child adds its own path to the tree and no other. -/
theorem follow_growNode (h : PathTree n nodes tip) (hp : follow nodes 0 p = some k)
    (hfree : childOf nodes k b = none) (l : Option Nat) (c : Code) (m : Nat) :
    follow (growNode nodes k b l) 0 c = some m ↔
      follow nodes 0 c = some m ∨ (c = p ++ [b] ∧ m = nodes.length) := by
  induction c using List.reverseRecOn generalizing m with
  | nil => simp [follow]
  | append_singleton c x ih =>
    simp only [follow_concat, Option.bind_eq_some_iff, ih, childOf_growNode (h.follow_lt h.pos hp)]
    constructor
    · rintro ⟨i, hi | ⟨-, rfl⟩, hm⟩
      · split at hm
        · next hik =>
          obtain ⟨rfl, rfl⟩ := hik
          cases hm
          exact .inr ⟨by rw [h.path_unique hi hp], rfl⟩
        · exact .inl ⟨i, hi, hm⟩
      · have hne : nodes.length ≠ k := (h.follow_lt h.pos hp).ne'
        rw [if_neg fun hik => hne hik.1, childOf_eq_none_of_le le_rfl] at hm
        cases hm
    · rintro (⟨i, hi, hm⟩ | ⟨hc, rfl⟩)
      · refine ⟨i, .inl hi, ?_⟩
        rw [if_neg, hm]
        rintro ⟨rfl, rfl⟩
        rw [hfree] at hm
        cases hm
      · obtain ⟨rfl, hx⟩ := List.append_inj' hc rfl
        exact ⟨k, .inl hp, if_pos ⟨rfl, List.singleton_inj.mp hx⟩⟩

theorem leafAt_growNode (h : PathTree n nodes tip) (hp : follow nodes 0 p = some k)
    (hfree : childOf nodes k b = none) (l : Option Nat) (c : Code) (i : Nat) :
    leafAt (growNode nodes k b l) c = some i ↔
      leafAt nodes c = some i ∨ (c = p ++ [b] ∧ l = some i) := by
  simp only [leafAt_eq_some, follow_growNode h hp hfree, leafOf_growNode]
  constructor
  · rintro ⟨m, hm | ⟨hc, rfl⟩, hl⟩
    · rw [if_neg (h.follow_lt h.pos hm).ne] at hl
      exact .inl ⟨m, hm, hl⟩
    · rw [if_pos rfl] at hl
      exact .inr ⟨hc, hl⟩
  · rintro (⟨m, hm, hl⟩ | ⟨hc, rfl⟩)
    · exact ⟨m, .inl hm, by rw [if_neg (h.follow_lt h.pos hm).ne, hl]⟩
    · exact ⟨nodes.length, .inr ⟨hc, rfl⟩, if_pos rfl⟩

/-- DEC_COMMIT's loop adds one leaf to the tree, at the end of the code. -/
theorem leafAt_insertPath {j : Nat} (h : PathTree n nodes tip)
    (htip : tip = none ∨ tip = some k) (hp : follow nodes 0 p = some k)
    (hleaf : leafOf nodes k = none) (hfree : childOf nodes k b = none) (rest c : Code) (i : Nat) :
    leafAt (insertPath j nodes k (b :: rest)) c = some i ↔
      leafAt nodes c = some i ∨ (c = p ++ b :: rest ∧ i = j) := by
  induction rest generalizing nodes tip p b k with
  | nil =>
    rw [insertPath_cons, if_pos rfl, insertPath, leafAt_growNode h hp hfree, Option.some_inj,
      eq_comm (a := j)]
  | cons b' rest ih =>
    have hg := h.growNode (l := none) htip (h.follow_lt h.pos hp) hleaf hfree (by simp)
    have hp' := (follow_growNode h hp hfree none (p ++ [b]) nodes.length).mpr (.inr ⟨rfl, rfl⟩)
    have hfree' : childOf (growNode nodes k b none) nodes.length b' = none := by
      rw [childOf_growNode (h.follow_lt h.pos hp), if_neg fun hik => ?_,
        childOf_eq_none_of_le le_rfl]
      exact absurd hik.1 (h.follow_lt h.pos hp).ne'
    rw [insertPath_cons, if_neg (by simp),
      ih hg (.inr rfl) hp' (by simp [leafOf_growNode]) hfree', leafAt_growNode h hp hfree]
    simp

end

end Sys2Proof.Machine
end

section
/-! PROOFS, part 19. The table loader (46_table_loader R270 to R279): what each command does in each
of its cases, what a commit adds to the table, and that DEC_RUN depends on the entries alone. -/

namespace Sys2Proof.Machine

open Sys2Proof.Claims

/-! ### The loader's operands (30_encoding R102) and memories (20_memory R79) -/

theorem decCommand_failsDec {st : Stage} {states : List DecState}
    {body : Decoder → Except ResultCode (Word × Decoder)} {s : State} {rc : ResultCode}
    (h : s.dec.state ∈ states) (hb : body s.dec = .error rc) :
    failsDec s (.next (decCommand st states body s)) rc st := by
  rw [decCommand_error h hb]
  exact raise_failsDec rc st s

theorem decCommand_gate_failsDec {st : Stage} {states : List DecState}
    {body : Decoder → Except ResultCode (Word × Decoder)} {s : State} (h : s.dec.state ∉ states) :
    failsDec s (.next (decCommand st states body s)) .eState st := by
  rw [decCommand_gate h]
  exact raise_failsDec .eState st s

theorem cpOperand_of_lt {a : Word} (h : 0x10FFFF < a.toNat) : cpOperand a = .error .eArg :=
  cpOperand_of_not_le fun hle => Nat.not_le.mpr h (BitVec.le_def.mp hle)

theorem byteOperand_of_lt {a : Word} (h : 0xFF < a.toNat) : byteOperand a = .error .eArg :=
  byteOperand_of_not_le fun hle => Nat.not_le.mpr h (BitVec.le_def.mp hle)

theorem bitOperand_of_le {a : Word} (h : a.toNat ≤ 1) : bitOperand a = .ok (decide (a = 1)) := by
  obtain h | h : a.toNat = 0 ∨ a.toNat = 1 := by omega
  · obtain rfl : a = 0 := BitVec.eq_of_toNat_eq h
    rfl
  · obtain rfl : a = 1 := BitVec.eq_of_toNat_eq h
    rfl

theorem bitOperand_of_lt {a : Word} (h : 1 < a.toNat) : bitOperand a = .error .eTable := by
  have h0 : a ≠ 0 := fun e => by simp [e] at h
  have h1 : a ≠ 1 := fun e => by simp [e] at h
  rw [bitOperand, if_neg h0, if_neg h1]

theorem padOperand_of_lt {a : Word} (h : 7 < a.toNat) : padOperand a = .error .eTable :=
  dif_neg (by omega)

/-- The cases of a loader command that appends its operand to a memory of D: DEC_ADD_CP, DEC_ADD_BIT
and DEC_PUSH_BYTE (46_table_loader R271, R272, R278). -/
structure AppendsOperand {α : Type} (i : Instr) (s : State) (operand : Except ResultCode α)
    (cap : Nat) (l : List α) (store : List α → Decoder) : Prop where
  gate : s.dec.state ≠ .load → failsDec s (exec i s) .eState .artifactLoad
  range {rc : ResultCode} : s.dec.state = .load → operand = .error rc →
    failsDec s (exec i s) rc .artifactLoad
  full {v : α} : s.dec.state = .load → operand = .ok v → l.length = cap →
    failsDec s (exec i s) .eCapacity .artifactLoad
  room {v : α} : s.dec.state = .load → operand = .ok v → l.length ≠ cap →
    exec i s = .next ((s.setDec (store (l ++ [v]))).setReport 0 .ok .artifactLoad)

theorem appendsOperand_of_exec {α : Type} {i : Instr} {s : State} {operand : Except ResultCode α}
    {cap : Nat} {l : List α} {store : List α → Decoder}
    {body : Decoder → Except ResultCode (Word × Decoder)}
    (hx : exec i s = .next (decCommand .artifactLoad [.load] body s))
    (hb : body s.dec = operand.bind fun v => (appendCapped cap v l).map fun l' => (0, store l')) :
    AppendsOperand i s operand cap l store where
  gate hs := hx ▸ decCommand_gate_failsDec (mt List.mem_singleton.mp hs)
  range hs ho := by
    rw [hx]
    exact decCommand_failsDec (List.mem_singleton.mpr hs) (by rw [hb, ho]; rfl)
  full hs ho hl := by
    rw [hx]
    exact decCommand_failsDec (List.mem_singleton.mpr hs)
      (by rw [hb, ho, Except.bind, appendCapped, if_pos hl]; rfl)
  room hs ho hl := by
    rw [hx]
    exact congrArg Host.Outcome.next (decCommand_ok (List.mem_singleton.mpr hs)
      (by rw [hb, ho, Except.bind, appendCapped, if_neg hl]; rfl))

/-! ### DEC_COMMIT (46_table_loader R273, R275, R276) -/

/-- The checks of DEC_COMMIT that report E_TABLE (46_table_loader R273, R275). -/
def malformedEntry (d : Decoder) : Prop :=
  d.psym = [] ∨ d.pcode = [] ∨ d.psym ∈ d.sym ∨ codeConflict d

section
variable {d : Decoder} (h : PathTree d.sym.length d.node none)
include h

theorem PathTree.codeConflict_iff : codeConflict d ↔ meetsLeaf d.node d.pcode := by
  have hpre (c : Code) (hc : c = d.pcode ∨ c <+: d.pcode ∨ d.pcode <+: c) :
      c <+: d.pcode ∨ d.pcode <+: c := hc.elim (fun e => .inl (e ▸ List.prefix_rfl)) id
  simp only [codeConflict, h.holdsEntry_iff, meetsLeaf, ← h.entryAt_isSome,
    Option.isSome_iff_exists]
  exact ⟨fun ⟨c, y, hy, hc⟩ => ⟨c, ⟨y, hy⟩, hpre c hc⟩, fun ⟨c, ⟨y, hy⟩, hc⟩ => ⟨c, y, hy, .inr hc⟩⟩

theorem PathTree.decCommitBody_of_malformed (c : Config) (hm : malformedEntry d) :
    decCommitBody c d = .error .eTable := by
  unfold decCommitBody
  split
  · rfl
  next hsym =>
  split
  · rfl
  next hcode =>
  split
  · rfl
  next hnew =>
  have hmeet : meetsLeaf d.node d.pcode :=
    h.codeConflict_iff.mp (((hm.resolve_left hsym).resolve_left hcode).resolve_left hnew)
  rw [h.descend_of_meetsLeaf hmeet]
  rfl

end

/-- An entry that is not malformed leaves the tree, and only the capacities are still checked. -/
theorem PathTree.decCommitBody_of_not_malformed {d : Decoder}
    (h : PathTree d.sym.length d.node none) (hm : ¬ malformedEntry d) :
    ∃ p b rest k, LeavesTree d.node d.pcode p b rest k ∧ ∀ c : Config, decCommitBody c d =
      if d.sym.length = c.nSym then .error .eCapacity
      else if c.dnodeCap < d.node.length + (b :: rest).length then .error .eCapacity
      else .ok (countWord d.sym.length,
        { d with node := insertPath d.sym.length d.node k (b :: rest),
                 sym := d.sym ++ [d.psym], psym := [], pcode := [] }) := by
  simp only [malformedEntry, not_or] at hm
  obtain ⟨hsym, hcode, hnew, hconf⟩ := hm
  obtain ⟨p, b, rest, k, hx, hd⟩ :=
    h.descend_of_not_meetsLeaf hcode fun hmeet => hconf (h.codeConflict_iff.mpr hmeet)
  have hdrop : d.pcode.drop p.length = b :: rest := by rw [hx.code_eq, List.drop_left]
  refine ⟨p, b, rest, k, hx, fun c => ?_⟩
  rw [decCommitBody, if_neg hsym, if_neg hcode, if_neg hnew, hd, ← hdrop,
    List.length_drop]
  rfl

/-- The starts of a code that are missing from the tree are those past the point where it leaves
it, one per remaining bit (46_table_loader R276). -/
theorem LeavesTree.missingNodes_eq {d : Decoder} {p rest : Code} {b : Bit} {k : Nat}
    (hx : LeavesTree d.node d.pcode p b rest k) : missingNodes d = (b :: rest).length := by
  have hinside (n : Nat) (hn : n < p.length) :
      (follow d.node 0 (d.pcode.take (n + 1))).isNone = false := by
    have hpre : d.pcode.take (n + 1) <+: p := by
      rw [hx.code_eq, List.take_append_of_le_length hn]
      exact List.take_prefix _ _
    obtain ⟨i, hi⟩ := exists_follow_of_prefix hpre hx.path
    rw [hi]
    rfl
  have hbeyond (n : Nat) : (follow d.node 0 (d.pcode.take (p.length + n + 1))).isNone = true := by
    rw [hx.code_eq, Nat.add_assoc, List.take_length_add_append, List.take_succ_cons,
      follow_eq_none_of_free hx.path hx.free]
    rfl
  have hlen : d.pcode.length = p.length + (b :: rest).length := by
    rw [hx.code_eq, List.length_append]
  rw [missingNodes, hlen, List.range_add, List.filter_append, List.filter_eq_nil_iff.mpr,
    List.filter_eq_self.mpr]
  · simp
  · intro n hn
    obtain ⟨m, -, rfl⟩ := List.mem_map.mp hn
    exact hbeyond m
  · intro n hn
    simp [hinside n (List.mem_range.mp hn)]

/-- The table after a commit maps the old entries and the new one, and nothing else. -/
theorem LeavesTree.holdsEntry_commit {d d' : Decoder} {p rest : Code} {b : Bit} {k : Nat}
    (hx : LeavesTree d.node d.pcode p b rest k) (h : PathTree d.sym.length d.node none)
    (h' : PathTree d'.sym.length d'.node none)
    (hnode : d'.node = insertPath d.sym.length d.node k (b :: rest))
    (hsym : d'.sym = d.sym ++ [d.psym]) (c : Code) (y : Symbol) :
    d'.holdsEntry c y ↔ d.holdsEntry c y ∨ (c = d.pcode ∧ y = d.psym) := by
  rw [h.holdsEntry_iff, h'.holdsEntry_iff, Decoder.entryAt_eq_some, Decoder.entryAt_eq_some, hnode,
    hsym, hx.code_eq]
  simp only [leafAt_insertPath h (.inl rfl) hx.path hx.inner hx.free]
  have hold {j : Nat} (hj : leafAt d.node c = some j) : (d.sym ++ [d.psym])[j]? = d.sym[j]? := by
    obtain ⟨m, -, hl⟩ := leafAt_eq_some.mp hj
    exact List.getElem?_append_left (h.entry m j hl)
  constructor
  · rintro ⟨j, hj | ⟨hc, rfl⟩, hy⟩
    · exact .inl ⟨j, hj, hold hj ▸ hy⟩
    · rw [List.getElem?_concat_length] at hy
      exact .inr ⟨hc, (Option.some.inj hy).symm⟩
  · rintro (⟨j, hj, hy⟩ | ⟨hc, rfl⟩)
    · exact ⟨j, .inl hj, (hold hj).trans hy⟩
    · exact ⟨d.sym.length, .inr ⟨hc, rfl⟩, List.getElem?_concat_length⟩

/-! ### DEC_RUN and the entries (46_table_loader R279) -/

section
variable {d : Decoder} {b : Bit} {k : Nat} (c : Config) (bits : List Bit) (out : List CP)
  (cnt : Nat)

theorem walk_nil : walk c d [] k out cnt = if k ≠ 0 then .error .eCorrupt else .ok (out, cnt) := rfl

theorem walk_of_noChild (hc : childOf d.node k b = none) :
    walk c d (b :: bits) k out cnt = .error .eCorrupt := by
  simp only [walk, hc]

theorem walk_of_inner {m : Nat} (hc : childOf d.node k b = some m) (hl : leafOf d.node m = none) :
    walk c d (b :: bits) k out cnt = walk c d bits m out cnt := by
  simp only [walk, hc, hl]

theorem walk_of_leaf {m j : Nat} (hc : childOf d.node k b = some m)
    (hl : leafOf d.node m = some j) :
    walk c d (b :: bits) k out cnt =
      if out.length + (d.sym.getD j []).length > c.outCap then .error .eCapacity
      else walk c d bits 0 (out ++ d.sym.getD j []) (cnt + 1) := by
  simp only [walk, hc, hl]

end

section
variable {d e : Decoder} (hd : PathTree d.sym.length d.node none)
  (he : PathTree e.sym.length e.node none) (hde : d.entryAt = e.entryAt)
include hd he hde

/-- The entries determine which paths lead to a node. -/
theorem PathTree.follow_isSome_congr (p : Code) :
    (follow d.node 0 p).isSome = (follow e.node 0 p).isSome := by
  rw [Bool.eq_iff_iff, hd.follow_isSome_iff, he.follow_isSome_iff]
  simp only [← hd.entryAt_isSome, ← he.entryAt_isSome, hde]

/-- Two tables with the same entries are walked alike, from the nodes one path leads to. -/
theorem PathTree.walk_congr (c : Config) (bits : List Bit) {p : Code} {k i : Nat}
    (hk : follow d.node 0 p = some k) (hi : follow e.node 0 p = some i) (out : List CP)
    (cnt : Nat) : walk c d bits k out cnt = walk c e bits i out cnt := by
  induction bits generalizing p k i out cnt with
  | nil =>
    have hroot : k = 0 ↔ i = 0 := by
      constructor
      · rintro rfl
        cases hd.path_unique hk (q := []) rfl
        exact (Option.some.inj hi).symm
      · rintro rfl
        cases he.path_unique hi (q := []) rfl
        exact (Option.some.inj hk).symm
    rw [walk_nil, walk_nil]
    simp only [ne_eq, hroot]
  | cons b bits ih =>
    have hdb : follow d.node 0 (p ++ [b]) = childOf d.node k b := by rw [follow_concat, hk]; rfl
    have heb : follow e.node 0 (p ++ [b]) = childOf e.node i b := by rw [follow_concat, hi]; rfl
    have hsome := hd.follow_isSome_congr he hde (p ++ [b])
    rw [hdb, heb] at hsome
    cases hck : childOf d.node k b with
    | none =>
      rw [hck] at hsome
      have hci : childOf e.node i b = none := by simpa using hsome
      rw [walk_of_noChild c bits out cnt hck, walk_of_noChild c bits out cnt hci]
    | some m =>
      rw [hck] at hsome
      obtain ⟨m', hci⟩ := Option.isSome_iff_exists.mp hsome.symm
      rw [hck] at hdb
      rw [hci] at heb
      have hleaf := congrFun hde (p ++ [b])
      rw [hd.entryAt_of_follow hdb, he.entryAt_of_follow heb] at hleaf
      cases hl : leafOf d.node m with
      | none =>
        rw [hl, Option.map_none, eq_comm, Option.map_eq_none_iff] at hleaf
        rw [walk_of_inner c bits out cnt hck hl, walk_of_inner c bits out cnt hci hleaf]
        exact ih hdb heb out cnt
      | some j =>
        rw [hl, Option.map_some, eq_comm] at hleaf
        obtain ⟨j', hl', hsym⟩ := Option.map_eq_some_iff.mp hleaf
        rw [walk_of_leaf c bits out cnt hck hl, walk_of_leaf c bits out cnt hci hl', hsym,
          ih (p := []) rfl rfl]

end

/-- The text and the count of DEC_RUN on complete artifacts, or its failure (47_bitstream_walker
R310). -/
def decRunResult (c : Config) (d : Decoder) : Except ResultCode (List CP × Nat) :=
  if 8 * d.bytes.length < d.pad.val then .error .eCorrupt else walk c d (validBits d) 0 [] 0

theorem decRunBody_eq (c : Config) (d : Decoder) :
    decRunBody c d = (decRunResult c d).map fun r =>
      (countWord r.2, { d with out := r.1, nout := r.2, state := .done }) := by
  unfold decRunBody decRunResult
  split <;> rfl

/-- On complete artifacts DEC_RUN makes no table check (47_bitstream_walker R310). -/
theorem exec_decRun_of_loadComplete {s : State} (h : loadComplete s.dec) :
    exec .decRun s = .next (decCommand .decode [.load] (decRunBody s.cfg) s) := by
  obtain ⟨-, hsym, hcode, hpad⟩ := h
  have hcomplete : tableIncomplete s.dec = false := by simp [tableIncomplete, hsym, hcode, hpad]
  exact congrArg Host.Outcome.next (if_neg (by simp [hcomplete]))

theorem exec_decRun_of_ok {s : State} {out : List CP} {cnt : Nat} (h : loadComplete s.dec)
    (hr : decRunResult s.cfg s.dec = .ok (out, cnt)) :
    exec .decRun s = .next (complete .decode (countWord cnt)
      (s.setDec { s.dec with out := out, nout := cnt, state := .done })) := by
  rw [exec_decRun_of_loadComplete h, decCommand_ok (List.mem_singleton.mpr h.1)
    ((decRunBody_eq _ _).trans (congrArg (Except.map _) hr))]

theorem exec_decRun_of_error {s : State} {rc : ResultCode} (h : loadComplete s.dec)
    (hr : decRunResult s.cfg s.dec = .error rc) :
    exec .decRun s = .next (raise .decoder rc .decode s) := by
  rw [exec_decRun_of_loadComplete h, decCommand_error (List.mem_singleton.mpr h.1)
    ((decRunBody_eq _ _).trans (congrArg (Except.map _) hr))]

/-- The same entries, padding count and bytes give the same result. -/
theorem decRunResult_congr (c : Config) {d e : Decoder} (hd : PathTree d.sym.length d.node none)
    (he : PathTree e.sym.length e.node none) (hpad : d.pad = e.pad) (hbytes : d.bytes = e.bytes)
    (h : ∀ p y, d.holdsEntry p y ↔ e.holdsEntry p y) : decRunResult c d = decRunResult c e := by
  have hde : d.entryAt = e.entryAt := by
    funext p
    refine Option.ext fun y => ?_
    rw [← hd.holdsEntry_iff, ← he.holdsEntry_iff, h]
  have hbits : validBits d = validBits e := by rw [validBits, validBits, hpad, hbytes]
  rw [decRunResult, decRunResult, hpad, hbytes, hbits, hd.walk_congr he hde c (p := []) _ rfl rfl]

/-! ### The statements -/

/-- Settles O53: the two runs have one result, and report it alike. -/
theorem decRunDependsOnTheEntriesAlone : Obligations.DecRunDependsOnTheEntriesAlone := by
  intro s u hcfg hs hu hst hut hpad hbytes hent t v ht hv
  obtain ⟨hsTree, -⟩ := Decoder.treeOk_iff.mp hst (.inl hs.1)
  obtain ⟨huTree, -⟩ := Decoder.treeOk_iff.mp hut (.inl hu.1)
  have hres := decRunResult_congr s.cfg hsTree huTree hpad hbytes hent
  cases hr : decRunResult s.cfg s.dec with
  | ok r =>
    rw [hr, hcfg] at hres
    rw [exec_decRun_of_ok hs hr] at ht
    rw [exec_decRun_of_ok hu hres.symm] at hv
    cases ht
    cases hv
    exact ⟨⟨rfl, rfl, rfl⟩, rfl, fun _ => ⟨rfl, rfl⟩⟩
  | error rc =>
    rw [hr, hcfg] at hres
    rw [exec_decRun_of_error hs hr] at ht
    rw [exec_decRun_of_error hu hres.symm] at hv
    cases ht
    cases hv
    exact ⟨⟨rfl, rfl, rfl⟩, by simp, fun h => by simp at h⟩

/-- Settles O44: the code leaves the tree, and the path inserted there ends at the new
entry's leaf. -/
theorem decCommitAddsExactlyThePendingEntry : Obligations.DecCommitAddsExactlyThePendingEntry := by
  intro s hs ht hsym hcode hnew hconf
  obtain ⟨htree, -⟩ := Decoder.treeOk_iff.mp ht (.inl hs)
  have hm : ¬ malformedEntry s.dec := by
    simp only [malformedEntry, not_or]
    exact ⟨hsym, hcode, hnew, hconf⟩
  obtain ⟨p, b, rest, k, hx, hbody⟩ := htree.decCommitBody_of_not_malformed hm
  have hmem := List.mem_singleton.mpr hs
  rw [hx.missingNodes_eq]
  refine ⟨fun hn => decCommand_failsDec hmem ?full, fun hn hcap => decCommand_failsDec hmem ?nodes,
    fun hn hcap => ?room⟩
  case full => rw [hbody, if_pos hn]
  case nodes => rw [hbody, if_neg hn, if_pos hcap]
  case room =>
    have hb := hbody s.cfg
    rw [if_neg hn, if_neg (Nat.not_lt.mpr hcap)] at hb
    obtain ⟨htree', -⟩ := Decoder.treeOk_iff.mp (decCommitBody_treeOk hb hs ht) (.inl hs)
    exact ⟨_, congrArg Host.Outcome.next (decCommand_ok hmem hb), ⟨rfl, rfl, rfl⟩,
      ⟨rfl, rfl, rfl, rfl, rfl, rfl⟩, rfl, rfl, rfl, rfl, insertPath_length _ _ _ _,
      hx.holdsEntry_commit htree htree' rfl rfl⟩

/-- Settles O45: a malformed entry is refused, and any other fails for want of room or is added. -/
theorem decCommitRefusesExactlyTheMalformedEntries :
    Obligations.DecCommitRefusesExactlyTheMalformedEntries := by
  intro s hs ht
  obtain ⟨htree, -⟩ := Decoder.treeOk_iff.mp ht (.inl hs)
  have hmem := List.mem_singleton.mpr hs
  refine ⟨fun hm => decCommand_failsDec hmem (htree.decCommitBody_of_malformed s.cfg hm),
    fun t hx hrc => ?_⟩
  by_contra hm
  obtain ⟨p, b, rest, k, -, hbody⟩ := htree.decCommitBody_of_not_malformed hm
  have hb := hbody s.cfg
  cases hx
  split at hb
  · rw [decCommand_error hmem hb] at hrc
    cases hrc
  · split at hb
    · rw [decCommand_error hmem hb] at hrc
      cases hrc
    · rw [decCommand_ok hmem hb] at hrc
      cases hrc

/-- Settles O39: the command sets each of the fields. -/
theorem decStartBeginsARun : Obligations.DecStartBeginsARun := fun _ => rfl

/-- Settles O40: the command appends its operand, a code point, to the pending symbol. -/
theorem decAddCpAppendsToThePendingSymbol : Obligations.DecAddCpAppendsToThePendingSymbol := by
  intro s
  have hx : AppendsOperand .decAddCp s (cpOperand s.arg0) s.cfg.wMax s.dec.psym
      fun l => { s.dec with psym := l } := appendsOperand_of_exec rfl rfl
  exact ⟨hx.gate, fun hs ha => hx.range hs (cpOperand_of_lt ha),
    fun hs ha => hx.full hs (cpOperand_of_le (BitVec.le_def.mpr ha)),
    fun hs ha => hx.room hs (cpOperand_of_le (BitVec.le_def.mpr ha))⟩

/-- Settles O41: the command appends its operand, a bit, to the pending code. -/
theorem decAddBitAppendsToThePendingCode : Obligations.DecAddBitAppendsToThePendingCode := by
  intro s
  have hx : AppendsOperand .decAddBit s (bitOperand s.arg0) s.cfg.maxCodeLen s.dec.pcode
      fun l => { s.dec with pcode := l } := appendsOperand_of_exec rfl rfl
  exact ⟨hx.gate, fun hs ha => hx.range hs (bitOperand_of_lt ha),
    fun hs ha => hx.full hs (bitOperand_of_le ha), fun hs ha => hx.room hs (bitOperand_of_le ha)⟩

/-- Settles O42: after the gate, the operand is a padding count or out of range. -/
theorem decSetPadLoadsThePaddingCount : Obligations.DecSetPadLoadsThePaddingCount := by
  refine fun s => ⟨fun hs => decCommand_gate_failsDec (mt List.mem_singleton.mp hs),
    fun hs ha => ?range, fun p hs ha => ?load⟩
  case range =>
    exact decCommand_failsDec (List.mem_singleton.mpr hs)
      (congrArg (Except.map _) (padOperand_of_lt ha))
  case load =>
    exact congrArg Host.Outcome.next (decCommand_ok (List.mem_singleton.mpr hs)
      (except_map_ok.mpr ⟨p, padOperand_ok.mpr ha, rfl⟩))

/-- Settles O43: the command appends its operand, a byte, to the loaded stream. -/
theorem decPushByteAppendsToTheStream : Obligations.DecPushByteAppendsToTheStream := by
  intro s
  have hx : AppendsOperand .decPushByte s (byteOperand s.arg0) s.cfg.byteCap s.dec.bytes
      fun l => { s.dec with bytes := l } := appendsOperand_of_exec rfl rfl
  rw [BitVec.ofNat_toNat]
  exact ⟨hx.gate, fun hs ha => hx.range hs (byteOperand_of_lt ha),
    fun hs ha => hx.full hs (byteOperand_of_le (BitVec.le_def.mpr ha)),
    fun hs ha => hx.room hs (byteOperand_of_le (BitVec.le_def.mpr ha))⟩

end Sys2Proof.Machine
end

section
/-! PROOFS, part 20. The bit-stream walker (47_bitstream_walker R310 to R316): what the walk does on
any bits, and what DEC_RUN answers for them. -/

namespace Sys2Proof.Machine

open Sys2Proof.Claims

/-! ### The valid bits (47_bitstream_walker R311) -/

theorem bitsOfByte_eq_map_packedBit (b : Byte) (bytes : List Byte) :
    bitsOfByte b = (List.range 8).map (packedBit (b :: bytes)) := rfl

/-- The bits of the bytes, one byte after another, are the bits of the stream by position. -/
theorem flatMap_bitsOfByte (bytes : List Byte) :
    bytes.flatMap bitsOfByte = (List.range (8 * bytes.length)).map (packedBit bytes) := by
  induction bytes with
  | nil => rfl
  | cons b bytes ih =>
    have hshift : packedBit (b :: bytes) ∘ (8 + ·) = packedBit bytes := by
      funext p
      rw [Function.comp_apply, Nat.add_comm, packedBit_cons_add_eight]
    rw [List.flatMap_cons, ih, bitsOfByte_eq_map_packedBit b bytes, List.length_cons, Nat.mul_succ,
      Nat.add_comm, List.range_add, List.map_append, List.map_map, hshift]

theorem validBits_eq_loadedBits (d : Decoder) : validBits d = loadedBits d := by
  rw [validBits, flatMap_bitsOfByte, ← List.map_take, List.take_range,
    Nat.min_eq_left (Nat.sub_le _ _), loadedBits]

/-! ### Sequences of codes -/

theorem codesOf_cons (p : Code × Symbol) (parts : List (Code × Symbol)) :
    codesOf (p :: parts) = p.1 ++ codesOf parts := List.flatMap_cons

theorem textOf_cons (p : Code × Symbol) (parts : List (Code × Symbol)) :
    textOf (p :: parts) = p.2 ++ textOf parts := List.flatMap_cons

theorem heldAll_nil (d : Decoder) : heldAll d [] := List.forall_mem_nil _

theorem heldAll_cons {d : Decoder} {p : Code × Symbol} {parts : List (Code × Symbol)} :
    heldAll d (p :: parts) ↔ d.holdsEntry p.1 p.2 ∧ heldAll d parts := List.forall_mem_cons

/-! ### The walk of a sequence of codes (47_bitstream_walker R310) -/

section
variable {d : Decoder} (h : PathTree d.sym.length d.node none) (c : Config)
include h

/-- A path to a leaf is walked to its symbol, which is written when it fits (47_bitstream_walker
R310, check 6). -/
theorem PathTree.walk_path {code : Code} {k m j : Nat} (hne : code ≠ [])
    (hm : follow d.node k code = some m) (hl : leafOf d.node m = some j) (bits : List Bit)
    (out : List CP) (cnt : Nat) :
    walk c d (code ++ bits) k out cnt =
      if out.length + (d.sym.getD j []).length > c.outCap then .error .eCapacity
      else walk c d bits 0 (out ++ d.sym.getD j []) (cnt + 1) := by
  induction code generalizing k with
  | nil => exact absurd rfl hne
  | cons b code ih =>
    cases hc : childOf d.node k b with
    | none => rw [follow, hc] at hm; cases hm
    | some i =>
      rw [follow_cons_of_child hc] at hm
      cases code with
      | nil =>
        cases hm
        exact walk_of_leaf c bits out cnt hc hl
      | cons b' code =>
        have hi : leafOf d.node i = none := by
          cases hi : leafOf d.node i with
          | none => rfl
          | some j' => rw [h.follow_leaf hi] at hm; cases hm
        rw [List.cons_append, walk_of_inner c _ out cnt hc hi]
        exact ih (List.cons_ne_nil _ _) hm

/-- The code of an entry is walked to the entry's symbol. -/
theorem PathTree.walk_code {code : Code} {y : Symbol} (hy : d.holdsEntry code y) (bits : List Bit)
    (out : List CP) (cnt : Nat) :
    walk c d (code ++ bits) 0 out cnt =
      if c.outCap < out.length + y.length then .error .eCapacity
      else walk c d bits 0 (out ++ y) (cnt + 1) := by
  obtain ⟨hne, m, j, hm, hl, hj⟩ := hy
  have hsym : d.sym.getD j [] = y := by rw [List.getD, hj]; rfl
  rw [h.walk_path c hne hm hl, hsym]

/-- The codes of entries are walked to their text, unless it exceeds OUT_CAP. -/
theorem PathTree.walk_codes {parts : List (Code × Symbol)} (hp : heldAll d parts) (bits : List Bit)
    {out : List CP} (cnt : Nat) (ho : out.length ≤ c.outCap) :
    walk c d (codesOf parts ++ bits) 0 out cnt =
      if c.outCap < out.length + (textOf parts).length then .error .eCapacity
      else walk c d bits 0 (out ++ textOf parts) (cnt + parts.length) := by
  induction parts generalizing out cnt with
  | nil => simp [codesOf, textOf, Nat.not_lt.mpr ho]
  | cons p parts ih =>
    obtain ⟨hfirst, hrest⟩ := heldAll_cons.mp hp
    rw [codesOf_cons, textOf_cons, List.append_assoc, h.walk_code c hfirst, List.length_append,
      ← Nat.add_assoc]
    by_cases hcap : c.outCap < out.length + p.2.length
    · rw [if_pos hcap, if_pos (by omega)]
    · rw [if_neg hcap, ih hrest _ (by rw [List.length_append]; omega), List.length_append,
        List.append_assoc, List.length_cons]
      congr 2
      omega

/-! ### The walk of any bits (47_bitstream_walker R310, R312) -/

/-- Everything the walk can do from the node that the bits `p` lead to: decode a sequence of codes,
find that the bits are none, or run out of output. -/
theorem PathTree.walk_cases (bits : List Bit) {p : Code} {k : Nat}
    (hp : follow d.node 0 p = some k) (out : List CP) (cnt : Nat) :
    (∃ parts, heldAll d parts ∧ p ++ bits = codesOf parts ∧
      walk c d bits k out cnt = .ok (out ++ textOf parts, cnt + parts.length)) ∨
    walk c d bits k out cnt = .error .eCorrupt ∨
    (walk c d bits k out cnt = .error .eCapacity ∧ ∃ parts, heldAll d parts ∧
      codesOf parts <+: p ++ bits ∧ c.outCap < out.length + (textOf parts).length) := by
  induction bits generalizing p k out cnt with
  | nil =>
    by_cases hk : k = 0
    · subst hk
      obtain rfl := h.path_unique hp (q := []) rfl
      exact .inl ⟨[], heldAll_nil d, rfl, by simp [walk_nil, textOf]⟩
    · exact .inr (.inl (by rw [walk_nil, if_pos hk]))
  | cons b bits ih =>
    rw [List.append_cons]
    cases hc : childOf d.node k b with
    | none => exact .inr (.inl (walk_of_noChild c bits out cnt hc))
    | some m =>
      have hm : follow d.node 0 (p ++ [b]) = some m := by rw [follow_concat, hp]; exact hc
      cases hl : leafOf d.node m with
      | none =>
        rw [walk_of_inner c bits out cnt hc hl]
        exact ih hm out cnt
      | some j =>
        have hentry : d.holdsEntry (p ++ [b]) (d.sym.getD j []) := by
          rw [h.holdsEntry_iff, h.entryAt_of_follow hm, hl]
          rfl
        have hheld {parts : List (Code × Symbol)} (hparts : heldAll d parts) :
            heldAll d ((p ++ [b], d.sym.getD j []) :: parts) := heldAll_cons.mpr ⟨hentry, hparts⟩
        rw [walk_of_leaf c bits out cnt hc hl]
        by_cases hcap : out.length + (d.sym.getD j []).length > c.outCap
        · refine .inr (.inr ⟨if_pos hcap, _, hheld (heldAll_nil d), ?_, ?_⟩)
          · simp [codesOf]
          · simpa [textOf] using hcap
        · rw [if_neg hcap]
          obtain ⟨parts, hparts, hbits, hw⟩ | hw | ⟨hw, parts, hparts, hbits, hlong⟩ :=
            ih (p := []) rfl (out ++ d.sym.getD j []) (cnt + 1)
          · refine .inl ⟨_, hheld hparts, ?_, ?_⟩
            · rw [codesOf_cons, ← hbits, List.nil_append]
            · rw [hw, textOf_cons, List.append_assoc, List.length_cons, Nat.add_assoc,
                Nat.add_comm 1]
          · exact .inr (.inl hw)
          · refine .inr (.inr ⟨hw, _, hheld hparts, ?_, ?_⟩)
            · rw [codesOf_cons, List.prefix_append_right_inj]
              exact hbits
            · rw [textOf_cons, List.length_append, ← Nat.add_assoc]
              rwa [List.length_append] at hlong

end

/-! ### The result of DEC_RUN (47_bitstream_walker R310) -/

theorem decRunResult_of_le {d : Decoder} (c : Config) (h : d.pad.val ≤ 8 * d.bytes.length) :
    decRunResult c d = walk c d (loadedBits d) 0 [] 0 := by
  rw [decRunResult, if_neg (Nat.not_lt.mpr h), validBits_eq_loadedBits]

section
variable {d : Decoder} (h : PathTree d.sym.length d.node none) (c : Config)
  (hpad : d.pad.val ≤ 8 * d.bytes.length)
include h hpad

/-- A sequence of codes is decoded to its text (47_bitstream_walker R311). -/
theorem PathTree.decRunResult_of_codes {parts : List (Code × Symbol)} (hp : heldAll d parts)
    (hbits : loadedBits d = codesOf parts) (hcap : (textOf parts).length ≤ c.outCap) :
    decRunResult c d = .ok (textOf parts, parts.length) := by
  have hw := h.walk_codes c hp [] (out := []) 0 (Nat.zero_le _)
  rw [List.append_nil, List.length_nil, Nat.zero_add, if_neg (Nat.not_lt.mpr hcap), walk_nil,
    if_neg (fun hne => hne rfl), Nat.zero_add, List.nil_append] at hw
  rw [decRunResult_of_le c hpad, hbits, hw]

/-- Codes whose text exceeds OUT_CAP end the walk, whatever bits follow (47_bitstream_walker
R310, check 6). -/
theorem PathTree.decRunResult_of_long_text {parts : List (Code × Symbol)} (hp : heldAll d parts)
    (hbits : codesOf parts <+: loadedBits d) (hcap : c.outCap < (textOf parts).length) :
    decRunResult c d = .error .eCapacity := by
  obtain ⟨rest, hrest⟩ := hbits
  have hw := h.walk_codes c hp rest (out := []) 0 (Nat.zero_le _)
  rw [List.length_nil, Nat.zero_add, if_pos hcap, hrest] at hw
  rw [decRunResult_of_le c hpad, hw]

/-- The three results DEC_RUN can have. -/
theorem PathTree.decRunResult_cases :
    (∃ parts, heldAll d parts ∧ loadedBits d = codesOf parts ∧
      decRunResult c d = .ok (textOf parts, parts.length)) ∨
    decRunResult c d = .error .eCorrupt ∨
    (decRunResult c d = .error .eCapacity ∧ ∃ parts, heldAll d parts ∧
      codesOf parts <+: loadedBits d ∧ c.outCap < (textOf parts).length) := by
  have hw := h.walk_cases c (loadedBits d) (p := []) rfl [] 0
  simpa only [decRunResult_of_le c hpad, List.nil_append, List.length_nil, Nat.zero_add] using hw

end

theorem exec_decRun_failsDec {s : State} {rc : ResultCode} (h : loadComplete s.dec)
    (hr : decRunResult s.cfg s.dec = .error rc) : failsDec s (exec .decRun s) rc .decode := by
  rw [exec_decRun_of_error h hr]
  exact raise_failsDec rc .decode s

/-- On an incomplete table DEC_RUN fails before it reads a bit (47_bitstream_walker R310). -/
theorem exec_decRun_of_tableIncomplete {s : State} (hs : s.dec.state = .load)
    (ht : tableIncomplete s.dec = true) :
    exec .decRun s = .next (raise .decoder .eTable .artifactLoad s) :=
  congrArg Host.Outcome.next (if_pos ⟨hs, ht⟩)

theorem tableIncomplete_iff (d : Decoder) :
    tableIncomplete d = true ↔ d.psym ≠ [] ∨ d.pcode ≠ [] ∨ d.padValid = false := by
  simp [tableIncomplete, or_assoc]

/-- A DEC_RUN that does not report success has failed. -/
theorem exec_decRun_state_of_failure {s t : State} (h : exec .decRun s = .next t)
    (hrc : t.lastRc ≠ .ok) : t.dec.state = .error := by
  obtain rfl | rfl := exec_decRun_cases h
  · simp
  · obtain ⟨-, v, d, -, he⟩ | ⟨-, rc, -, he⟩ | ⟨-, he⟩ :=
      decCommand_cases .decode [.load] (decRunBody s.cfg) s
    · rw [he] at hrc
      exact absurd rfl hrc
    · simp [he]
    · simp [he]

/-! ### The padding bits (47_bitstream_walker R314) -/

/-- The decoder with other bytes loaded. -/
def Decoder.withBytes (d : Decoder) (bytes : List Byte) : Decoder := { d with bytes := bytes }

/-- The state with other bytes loaded. -/
def State.withBytes (s : State) (bytes : List Byte) : State := s.setDec (s.dec.withBytes bytes)

@[simp] theorem State.withBytes_cfg (s : State) (bytes : List Byte) :
    (s.withBytes bytes).cfg = s.cfg := rfl
@[simp] theorem State.withBytes_dec (s : State) (bytes : List Byte) :
    (s.withBytes bytes).dec = s.dec.withBytes bytes := rfl
@[simp] theorem Decoder.withBytes_state (d : Decoder) (bytes : List Byte) :
    (d.withBytes bytes).state = d.state := rfl

/-- A failure keeps the loaded bytes and does not read them. -/
theorem raise_withBytes (rc : ResultCode) (st : Stage) (s : State) (bytes : List Byte) :
    raise .decoder rc st (s.withBytes bytes) = (raise .decoder rc st s).withBytes bytes := by
  by_cases hs : s.dec.state = .error <;>
    simp only [raise, enterError, State.withBytes_dec, Decoder.withBytes_state, hs, if_true,
      if_false] <;> rfl

theorem walk_withBytes (c : Config) (d : Decoder) (bytes : List Byte) (bits : List Bit) (k : Nat)
    (out : List CP) (cnt : Nat) : walk c (d.withBytes bytes) bits k out cnt =
      walk c d bits k out cnt := by
  induction bits generalizing k out cnt with
  | nil => rfl
  | cons b bits ih =>
    simp only [walk, ih]
    rfl

section
variable {d : Decoder} {bytes : List Byte} (hlen : bytes.length = d.bytes.length)
  (hbits : ∀ p < 8 * bytes.length - d.pad.val, packedBit bytes p = packedBit d.bytes p)
include hlen hbits

theorem validBits_withBytes : validBits (d.withBytes bytes) = validBits d := by
  rw [validBits_eq_loadedBits, validBits_eq_loadedBits, loadedBits, loadedBits, ← hlen]
  exact List.map_congr_left fun p hp => hbits p (List.mem_range.mp hp)

/-- Bytes with the same valid bits give the same result. -/
theorem decRunResult_withBytes (c : Config) :
    decRunResult c (d.withBytes bytes) = decRunResult c d := by
  simp only [decRunResult, validBits_withBytes hlen hbits, walk_withBytes]
  simp only [Decoder.withBytes, hlen]

theorem decRunBody_withBytes (c : Config) :
    decRunBody c (d.withBytes bytes) =
      (decRunBody c d).map fun r => (r.1, r.2.withBytes bytes) := by
  rw [decRunBody_eq, decRunBody_eq, decRunResult_withBytes hlen hbits, except_map_map]
  rfl

end

/-- A decoder command that carries the loaded bytes along does so in every case. -/
theorem decCommand_withBytes {st : Stage} {states : List DecState}
    {body : Decoder → Except ResultCode (Word × Decoder)} {s : State} {bytes : List Byte}
    (hb : body (s.dec.withBytes bytes) = (body s.dec).map fun r => (r.1, r.2.withBytes bytes)) :
    decCommand st states body (s.withBytes bytes) =
      (decCommand st states body s).withBytes bytes := by
  by_cases hs : s.dec.state ∈ states
  · have hs' : (s.withBytes bytes).dec.state ∈ states := hs
    cases hx : body s.dec with
    | ok r =>
      rw [hx] at hb
      rw [decCommand_ok hs hx, decCommand_ok hs' hb]
      rfl
    | error rc =>
      rw [hx] at hb
      rw [decCommand_error hs hx, decCommand_error hs' hb, raise_withBytes]
  · rw [decCommand_gate hs, decCommand_gate (s := s.withBytes bytes) hs, raise_withBytes]

/-- DEC_RUN on bytes with the same valid bits ends in the same state but for the bytes. -/
theorem exec_decRun_withBytes {s t : State} {bytes : List Byte}
    (hlen : bytes.length = s.dec.bytes.length)
    (hbits : ∀ p < 8 * bytes.length - s.dec.pad.val, packedBit bytes p = packedBit s.dec.bytes p)
    (h : exec .decRun s = .next t) :
    exec .decRun (s.withBytes bytes) = .next (t.withBytes bytes) := by
  change execDecRun s = .next t at h
  change execDecRun (s.withBytes bytes) = .next (t.withBytes bytes)
  have hc : ((s.withBytes bytes).dec.state = .load ∧ tableIncomplete (s.withBytes bytes).dec) ↔
      (s.dec.state = .load ∧ tableIncomplete s.dec) := Iff.rfl
  unfold execDecRun at h ⊢
  cases h
  simp only [hc, raise_withBytes, State.withBytes_cfg,
    decCommand_withBytes (decRunBody_withBytes hlen hbits s.cfg)]
  split <;> rfl

/-! ### The statements -/

/-- Settles O47: the walk of the codes writes their symbols. -/
theorem decRunDecodesASequenceOfCodes : Obligations.DecRunDecodesASequenceOfCodes := by
  intro s parts hs ht hpad hp hbits hcap
  obtain ⟨htree, -⟩ := Decoder.treeOk_iff.mp ht (.inl hs.1)
  exact exec_decRun_of_ok hs (htree.decRunResult_of_codes s.cfg hpad hp hbits hcap)

/-- Settles O48: the walk decodes a sequence of codes, finds that the bits are none, or runs out of
output. -/
theorem decRunRejectsEverythingElse : Obligations.DecRunRejectsEverythingElse := by
  intro s hs ht hpad
  obtain ⟨htree, -⟩ := Decoder.treeOk_iff.mp ht (.inl hs.1)
  refine ⟨fun t hx hrc => ?success, fun hfit hnone => ?corrupt, fun parts hp hbits hlong => ?long⟩
  case success =>
    obtain ⟨parts, hp, hbits, hr⟩ | hr | ⟨hr, -⟩ := htree.decRunResult_cases s.cfg hpad
    · cases (exec_decRun_of_ok hs hr).symm.trans hx
      exact ⟨parts, hp, hbits, rfl, rfl⟩
    · cases (exec_decRun_of_error hs hr).symm.trans hx
      cases hrc
    · cases (exec_decRun_of_error hs hr).symm.trans hx
      cases hrc
  case corrupt =>
    obtain ⟨parts, hp, hbits, -⟩ | hr | ⟨-, parts, hp, hbits, hlong⟩ :=
      htree.decRunResult_cases s.cfg hpad
    · exact absurd ⟨parts, hp, hbits⟩ hnone
    · exact exec_decRun_failsDec hs hr
    · exact absurd (hfit parts hp hbits) (Nat.not_le.mpr hlong)
  case long =>
    exact exec_decRun_failsDec hs (htree.decRunResult_of_long_text s.cfg hpad hp hbits hlong)

/-- Settles O49: the two runs end in the same state but for the bytes. -/
theorem paddingBitsAreNotChecked : Obligations.PaddingBitsAreNotChecked := by
  intro s bytes hlen hbits t t' ht ht'
  cases (exec_decRun_withBytes hlen hbits ht).symm.trans ht'
  rfl

/-- Settles O46: the gate, the table checks and the padding check come before the walk. -/
theorem decRunChecksTheArtifactsFirst : Obligations.DecRunChecksTheArtifactsFirst := by
  refine fun s => ⟨fun hs => ?gate, fun hs htable => ?table, fun hs hpad => ?padding⟩
  case gate =>
    exact (outOfStateCommandsFailWithEState .decRun s).2 _ rfl (mt List.mem_singleton.mp hs)
  case table =>
    rw [exec_decRun_of_tableIncomplete hs ((tableIncomplete_iff s.dec).mpr htable)]
    exact raise_failsDec .eTable .artifactLoad s
  case padding => exact exec_decRun_failsDec hs (if_pos hpad)

/-- Settles O50: a failed run leaves the unit in ERROR, where the text readouts are gated. -/
theorem failedRunLeavesNoReadableText : Obligations.FailedRunLeavesNoReadableText := by
  intro s t ht hrc a
  have hgate : (t.setArg0 a).dec.state ∉ [DecState.done] := by
    rw [State.setArg0_dec, exec_decRun_state_of_failure ht hrc]
    decide
  exact ⟨(outOfStateCommandsFailWithEState .decRdNsym _).2 _ rfl hgate,
    (outOfStateCommandsFailWithEState .decRdOutlen _).2 _ rfl hgate,
    (outOfStateCommandsFailWithEState .decRdOutcp _).2 _ rfl hgate⟩

end Sys2Proof.Machine
end

section
/-! PROOFS, part 21. A whole encoder run (41_frequency_analyzer R156 to 44_bit_packer R223): what it
holds in PACKED, and that a decoder that holds its artifacts decodes to its text
(47_bitstream_walker R315). -/

namespace Sys2Proof.Machine

open Sys2Proof.Claims

/-! ### The stages after the text (30_encoding R103) -/

/-- An encoder command that does not end in ERROR found its gate open and its body succeeding. -/
theorem encCommand_of_ne_error {st : Stage} {states : List EncState}
    {body : Encoder → Except ResultCode (Word × Encoder)} {s : State}
    (h : (encCommand st states body s).enc.state ≠ .error) :
    s.enc.state ∈ states ∧ ∃ v e, body s.enc = .ok (v, e) ∧
      (encCommand st states body s).enc = e := by
  obtain ⟨hs, v, e, hb, he⟩ | ⟨-, rc, -, he⟩ | ⟨-, he⟩ := encCommand_cases st states body s
  · exact ⟨hs, v, e, hb, by rw [he]; rfl⟩
  · rw [he] at h; simp at h
  · rw [he] at h; simp at h

section
variable {s d : State}

theorem after_encBuild (h : (after (exec .encBuild s) d).enc.state ≠ .error) :
    s.enc.state = .analyzed ∧ (after (exec .encBuild s) d).enc =
      { s.enc with node := (buildTree s.enc.sym.length s.enc.freq).1,
                   root := (buildTree s.enc.sym.length s.enc.freq).2, state := .built } := by
  obtain ⟨hs, v, e, hb, he⟩ := encCommand_of_ne_error (st := .treeBuild) (states := [.analyzed])
    (body := encBuildBody) h
  exact ⟨List.mem_singleton.mp hs, he.trans (encBuildBody_ok hb)⟩

theorem after_encAssign (h : (after (exec .encAssign s) d).enc.state ≠ .error) :
    s.enc.state = .built ∧ (after (exec .encAssign s) d).enc =
      { s.enc with code := codeTable s.enc.sym.length s.enc.node s.enc.root,
                   state := .assigned } := by
  obtain ⟨hs, v, e, hb, he⟩ := encCommand_of_ne_error h
  exact ⟨List.mem_singleton.mp hs, he.trans (encAssignBody_ok hb).2⟩

theorem after_encPack (h : (after (exec .encPack s) d).enc.state ≠ .error) :
    s.enc.state = .assigned ∧ (after (exec .encPack s) d).enc =
      { s.enc with bytes := packBits (paddedBits s.enc),
                   pad := padCount (streamBits s.enc.code s.enc.stream).length,
                   state := .packed } := by
  obtain ⟨hs, v, e, hb, he⟩ := encCommand_of_ne_error h
  exact ⟨List.mem_singleton.mp hs, he.trans (encPackBody_ok hb).2⟩

end

/-! ### The artifacts of a run (45_encoder_readout R251) -/

/-- What the encoder holds when the run over `text` has ended in PACKED. -/
structure PackedRun (text : List CP) (e : Encoder) : Prop where
  table : e.TableOk
  order : e.sym = (streamSymbols e).eraseDups
  text_eq : (streamSymbols e).flatten = text
  code : e.code = codeTable e.sym.length (buildTree e.sym.length e.freq).1
    (buildTree e.sym.length e.freq).2
  bytes : e.bytes = packBits (paddedBits e)
  pad : e.pad = padCount (streamBits e.code e.stream).length

/-- A run that ends in PACKED went through every stage. -/
theorem encodeText_packedRun {s : State} {m : Mode} {text : List CP}
    (h : (encodeText s m text).enc.state = .packed) :
    (analyse s m text).enc.state = .analyzed ∧ PackedRun text (encodeText s m text).enc := by
  unfold encodeText at h ⊢
  obtain ⟨hassigned, hpack⟩ := after_encPack (by rw [h]; decide)
  obtain ⟨hbuilt, hassign⟩ := after_encAssign (by rw [hassigned]; decide)
  obtain ⟨hanalyzed, hbuild⟩ := after_encBuild (by rw [hbuilt]; decide)
  obtain ⟨htable, htokens, horder⟩ := analyse_analyzed hanalyzed
  have hflat := congrArg List.flatten htokens
  rw [flatten_tokenize] at hflat
  refine ⟨hanalyzed, ?_⟩
  dsimp only
  rw [hpack, hassign, hbuild]
  exact ⟨htable.of_eq rfl rfl rfl, horder, hflat, rfl, rfl, rfl⟩

/-- A list is its elements by position. -/
theorem map_getD_range {α : Type} (l : List α) (d : α) :
    ((List.range l.length).map fun i => l.getD i d) = l :=
  List.ext_getElem (by simp) fun i _ hi => by simp [hi]

/-- The entries of the symbols of the text, in order. -/
def runParts (e : Encoder) : List (Code × Symbol) :=
  e.stream.map fun i => (e.code.getD i [], e.sym.getD i [])

theorem codesOf_runParts (e : Encoder) : codesOf (runParts e) = streamBits e.code e.stream :=
  List.flatMap_map ..

theorem textOf_runParts (e : Encoder) : textOf (runParts e) = (streamSymbols e).flatten := by
  rw [textOf, runParts, List.flatMap_map, streamSymbols, List.flatten_eq_flatMap, List.flatMap_map]
  rfl

section
variable {text : List CP} {e : Encoder} (h : PackedRun text e)
include h

theorem PackedRun.eight_mul_bytes_length :
    8 * e.bytes.length = (streamBits e.code e.stream).length + e.pad.val := by
  rw [h.bytes, h.pad, eight_mul_packBits_paddedBits_length]

/-- The valid bits of the packed stream are the codes of the symbol stream (44_bit_packer R223). -/
theorem PackedRun.loadedBits_eq {d : Decoder} (hbytes : d.bytes = e.bytes) (hpad : d.pad = e.pad) :
    loadedBits d = streamBits e.code e.stream := by
  have hlen := h.eight_mul_bytes_length
  rw [loadedBits, hbytes, hpad, hlen, Nat.add_sub_cancel]
  refine (List.map_congr_left fun p hp => ?_).trans
    (map_getD_range (streamBits e.code e.stream) false)
  have hlt := List.mem_range.mp hp
  rw [h.bytes] at hlen ⊢
  exact packedBit_packBits_paddedBits e (by omega)

/-- DEC_RUN on a decoder that holds the artifacts of a run completes with the text of the run
(47_bitstream_walker R315). -/
theorem PackedRun.exec_decRun {u : State} (hu : ArtifactsLoaded e u.dec)
    (hcap : text.length ≤ u.cfg.outCap) :
    exec .decRun u =
      .next ((u.setDec { u.dec with out := text, nout := e.stream.length,
                                    state := .done }).setReport
        (BitVec.ofNat 32 e.stream.length) .ok .decode) := by
  obtain ⟨hload, htree, hpsym, hpcode, hvalid, hpad, hbytes, hentries⟩ := hu
  have hheld : heldAll u.dec (runParts e) := by
    intro p hp
    obtain ⟨i, hi, rfl⟩ := List.mem_map.mp hp
    exact hentries i (h.table.bounded i hi)
  have htext : textOf (runParts e) = text := (textOf_runParts e).trans h.text_eq
  have hcount : (runParts e).length = e.stream.length := List.length_map _
  have hfit : u.dec.pad.val ≤ 8 * u.dec.bytes.length := by
    rw [hpad, hbytes, h.eight_mul_bytes_length]
    exact Nat.le_add_left _ _
  have hrun := decRunDecodesASequenceOfCodes u (runParts e) ⟨hload, hpsym, hpcode, hvalid⟩ htree
    hfit hheld ((h.loadedBits_eq hbytes hpad).trans (codesOf_runParts e).symm) (htext ▸ hcap)
  rwa [htext, hcount] at hrun

end

/-! ### The statement -/

/-- Settles O54: the valid bits are the codes of the text's symbols, which DEC_RUN decodes. -/
theorem decodingAnEncodedTextGivesTheText : Obligations.DecodingAnEncodedTextGivesTheText := by
  intro s m text hpacked hcap u hcfg hu
  obtain ⟨-, hrun⟩ := encodeText_packedRun hpacked
  exact ⟨_, hrun.exec_decRun hu (hcfg ▸ hcap), rfl, rfl, rfl, rfl⟩

end Sys2Proof.Machine
end

section
/-! PROOFS, part 22. Loading a table by the commands (46_table_loader R270 to R278): entries that
fit and do not conflict are all committed, in whatever order they come. -/

namespace Sys2Proof.Machine

open Sys2Proof.Claims

/-! ### The paths of a table -/

/-- The paths of a tree with the leaves `codes`: the root's and every start of a code. -/
def codePaths (codes : List Code) : Finset Code := insert [] (codes.flatMap List.inits).toFinset

theorem mem_codePaths {codes : List Code} {p : Code} :
    p ∈ codePaths codes ↔ p = [] ∨ ∃ c ∈ codes, p <+: c := by
  simp [codePaths]

theorem codePaths_mono {codes codes' : List Code} (h : codes ⊆ codes') :
    codePaths codes ⊆ codePaths codes' := fun p hp => by
  obtain rfl | ⟨c, hc, hpc⟩ := mem_codePaths.mp hp
  · exact mem_codePaths.mpr (.inl rfl)
  · exact mem_codePaths.mpr (.inr ⟨c, h hc, hpc⟩)

/-- In a tree whose entries have the codes `codes`, their paths are those that lead to a node. -/
theorem PathTree.follow_isSome_iff_mem_codePaths {d : Decoder}
    (h : PathTree d.sym.length d.node none) {codes : List Code}
    (hcodes : ∀ c, c ∈ codes ↔ ∃ y, d.holdsEntry c y) (p : Code) :
    (follow d.node 0 p).isSome ↔ p ∈ codePaths codes := by
  simp only [h.follow_isSome_iff, mem_codePaths, hcodes, ← h.entryAt_isSome, h.holdsEntry_iff,
    Option.isSome_iff_exists, and_comm]

/-- The starts of the pending code that lead to no node yet. -/
def missingPaths (d : Decoder) : List Code :=
  ((List.range d.pcode.length).filter fun n =>
    (follow d.node 0 (d.pcode.take (n + 1))).isNone).map fun n => d.pcode.take (n + 1)

theorem length_missingPaths (d : Decoder) : (missingPaths d).length = missingNodes d :=
  List.length_map _

theorem mem_missingPaths {d : Decoder} {p : Code} (h : p ∈ missingPaths d) :
    p <+: d.pcode ∧ (follow d.node 0 p).isSome = false := by
  obtain ⟨n, hn, rfl⟩ := List.mem_map.mp h
  obtain ⟨-, hnone⟩ := List.mem_filter.mp hn
  exact ⟨List.take_prefix _ _, by simpa using hnone⟩

theorem nodup_missingPaths (d : Decoder) : (missingPaths d).Nodup := by
  refine List.Nodup.map_on (fun n hn n' hn' he => ?_) (List.nodup_range.filter _)
  have hlt := List.mem_range.mp (List.mem_of_mem_filter hn)
  have hlt' := List.mem_range.mp (List.mem_of_mem_filter hn')
  have hlen := congrArg List.length he
  simp only [List.length_take] at hlen
  omega

/-- The nodes a commit adds are no more than the paths its code adds (46_table_loader R276). -/
theorem PathTree.card_codePaths_add_missingNodes {d : Decoder}
    (h : PathTree d.sym.length d.node none) {codes : List Code}
    (hcodes : ∀ c, c ∈ codes ↔ ∃ y, d.holdsEntry c y) :
    (codePaths codes).card + missingNodes d ≤ (codePaths (codes ++ [d.pcode])).card := by
  have hdisjoint : Disjoint (codePaths codes) (missingPaths d).toFinset := by
    refine Finset.disjoint_right.mpr fun p hp hold => ?_
    obtain ⟨-, hnone⟩ := mem_missingPaths (List.mem_toFinset.mp hp)
    rw [(h.follow_isSome_iff_mem_codePaths hcodes p).mpr hold] at hnone
    cases hnone
  rw [← length_missingPaths, ← List.toFinset_card_of_nodup (nodup_missingPaths d),
    ← Finset.card_union_of_disjoint hdisjoint]
  refine Finset.card_le_card (Finset.union_subset (codePaths_mono (List.subset_append_left _ _))
    fun p hp => ?_)
  exact mem_codePaths.mpr (.inr ⟨d.pcode, by simp, (mem_missingPaths (List.mem_toFinset.mp hp)).1⟩)

/-! ### Entries that can be loaded -/

/-- An entry each of whose parts the loader's commands take (46_table_loader R271, R272). -/
structure LoadableEntry (c : Config) (p : Code × Symbol) : Prop where
  code_ne_nil : p.1 ≠ []
  code_length : p.1.length ≤ c.maxCodeLen
  symbol_ne_nil : p.2 ≠ []
  symbol_length : p.2.length ≤ c.wMax
  codePoints : ∀ cp ∈ p.2, cp ≤ 0x10FFFF

/-- A table with no conflict that fits the decoder (46_table_loader R273, R275). -/
structure Loadable (c : Config) (es : List (Code × Symbol)) : Prop where
  entry : ∀ p ∈ es, LoadableEntry c p
  symbols : (es.map Prod.snd).Nodup
  prefixFree : (es.map Prod.fst).Pairwise fun a b => ¬ a <+: b ∧ ¬ b <+: a
  count : es.length ≤ c.nSym
  nodes : (codePaths (es.map Prod.fst)).card ≤ c.dnodeCap

theorem Loadable.of_append {c : Config} {es fs : List (Code × Symbol)}
    (h : Loadable c (es ++ fs)) : Loadable c es where
  entry p hp := h.entry p (List.mem_append_left fs hp)
  symbols := (List.nodup_append.mp (List.map_append ▸ h.symbols)).1
  prefixFree := (List.pairwise_append.mp (List.map_append ▸ h.prefixFree)).1
  count := le_trans (by simp) h.count
  nodes := le_trans (Finset.card_le_card (codePaths_mono
    (List.map_subset Prod.fst (List.subset_append_left es fs)))) h.nodes

section
variable {c : Config} {es : List (Code × Symbol)} {p : Code × Symbol} (h : Loadable c (es ++ [p]))
include h

theorem Loadable.last_symbol_notMem : p.2 ∉ es.map Prod.snd := by
  have hnodup := h.symbols
  rw [List.map_append] at hnodup
  exact fun hm => List.disjoint_of_nodup_append hnodup hm (by simp)

theorem Loadable.last_code_conflicts_with_none :
    ∀ q ∈ es, ¬ q.1 <+: p.1 ∧ ¬ p.1 <+: q.1 := by
  intro q hq
  have hpairs := h.prefixFree
  rw [List.map_append, List.pairwise_append] at hpairs
  obtain ⟨-, -, hcross⟩ := hpairs
  exact hcross q.1 (List.mem_map_of_mem hq) p.1 (by simp)

theorem Loadable.length_lt_nSym : es.length < c.nSym := by
  have hcount := h.count
  rw [List.length_append, List.length_singleton] at hcount
  omega

end

/-! ### Repeated commands -/

/-- The parameters and the decoder of a state: all that the loader's commands see. -/
def LoaderAt (c : Config) (d : Decoder) (u : State) : Prop := u.cfg = c ∧ u.dec = d

/-- A loader command repeated over values it takes appends them to its memory, as far as it has
room (20_memory R79). -/
theorem foldl_appendsOperand {α : Type} {i : Instr} {operand : Word → Except ResultCode α}
    {word : α → Word} {c : Config} {cap : Nat} {store : List α → Decoder}
    (hx : ∀ (s : State) (l : List α), LoaderAt c (store l) s →
      AppendsOperand i s (operand s.arg0) cap l store)
    (hload : ∀ l, (store l).state = .load) (vs : List α)
    (hv : ∀ v ∈ vs, operand (word v) = .ok v) {l : List α} (hcap : l.length + vs.length ≤ cap)
    {u : State} (hu : LoaderAt c (store l) u) :
    LoaderAt c (store (l ++ vs))
      (vs.foldl (fun u v => after (exec i (u.setArg0 (word v))) u) u) := by
  induction vs generalizing l u with
  | nil => rwa [List.append_nil]
  | cons v vs ih =>
    obtain ⟨hcfg, hdec⟩ := hu
    rw [List.length_cons] at hcap
    have hroom := (hx (u.setArg0 (word v)) l ⟨hcfg, hdec⟩).room
      ((congrArg Decoder.state hdec).trans (hload l)) (hv v List.mem_cons_self) (by omega)
    rw [List.foldl_cons, hroom, List.append_cons]
    refine ih (fun w hw => hv w (List.mem_cons_of_mem v hw)) ?_ ⟨hcfg, rfl⟩
    rw [List.length_append, List.length_singleton]
    omega

theorem bitOperand_bitWord (b : Bit) : bitOperand (bitWord b) = .ok b := by
  cases b <;> rfl

theorem byteOperand_byteWord (b : Byte) : byteOperand (byteWord b) = .ok b := by
  have hlt := b.isLt
  rw [byteOperand_of_le (by rw [BitVec.le_def]; simp [byteWord]; omega), byteWord]
  simp

section
variable {c : Config} {d : Decoder} {u : State} (hu : LoaderAt c d u)
  (hload : d.state = .load)
include hu hload

theorem foldl_decAddCp {y : Symbol} (hy : ∀ cp ∈ y, cp ≤ 0x10FFFF)
    (hcap : d.psym.length + y.length ≤ c.wMax) :
    LoaderAt c { d with psym := d.psym ++ y }
      (y.foldl (fun v p => after (exec .decAddCp (v.setArg0 p)) v) u) :=
  foldl_appendsOperand (operand := cpOperand) (word := id) (cap := c.wMax)
    (store := fun l => { d with psym := l })
    (fun s l hs => appendsOperand_of_exec rfl (by rw [hs.1, hs.2]; rfl)) (fun _ => hload) y
    (fun cp hcp => cpOperand_of_le (hy cp hcp)) hcap hu

theorem foldl_decAddBit {code : Code} (hcap : d.pcode.length + code.length ≤ c.maxCodeLen) :
    LoaderAt c { d with pcode := d.pcode ++ code }
      (code.foldl (fun v b => after (exec .decAddBit (v.setArg0 (bitWord b))) v) u) :=
  foldl_appendsOperand (operand := bitOperand) (cap := c.maxCodeLen)
    (store := fun l => { d with pcode := l })
    (fun s l hs => appendsOperand_of_exec rfl (by rw [hs.1, hs.2]; rfl)) (fun _ => hload) code
    (fun b _ => bitOperand_bitWord b) hcap hu

theorem foldl_decPushByte {bytes : List Byte} (hcap : d.bytes.length + bytes.length ≤ c.byteCap) :
    LoaderAt c { d with bytes := d.bytes ++ bytes }
      (bytes.foldl (fun v b => after (exec .decPushByte (v.setArg0 (byteWord b))) v) u) :=
  foldl_appendsOperand (operand := byteOperand) (cap := c.byteCap)
    (store := fun l => { d with bytes := l })
    (fun s l hs => appendsOperand_of_exec rfl (by rw [hs.1, hs.2]; rfl)) (fun _ => hload) bytes
    (fun b _ => byteOperand_byteWord b) hcap hu

theorem after_decSetPad (p : Fin 8) :
    LoaderAt c { d with pad := p, padValid := true }
      (after (exec .decSetPad (u.setArg0 (BitVec.ofNat 32 p.val))) u) := by
  obtain ⟨rfl, rfl⟩ := hu
  have harg : (BitVec.ofNat 32 p.val).toNat = p.val := by
    rw [BitVec.toNat_ofNat]
    omega
  rw [(decSetPadLoadsThePaddingCount (u.setArg0 (BitVec.ofNat 32 p.val))).2.2 p hload harg]
  exact ⟨rfl, rfl⟩

end

/-! ### The table (46_table_loader R273) -/

/-- The decoder's table has the entries `es`, committed in this order, and no byte is loaded. -/
structure TableHeld (es : List (Code × Symbol)) (d : Decoder) : Prop where
  state : d.state = .load
  tree : d.treeOk
  bytes : d.bytes = []
  sym : d.sym = es.map Prod.snd
  entries : ∀ code y, d.holdsEntry code y ↔ (code, y) ∈ es
  nodes : d.node.length ≤ (codePaths (es.map Prod.fst)).card

theorem tableHeld_freshDecoder : TableHeld [] freshDecoder where
  state := rfl
  tree := Decoder.treeOk_iff.mpr fun _ => ⟨pathTree_bareNode, List.nodup_nil, fun _ h => nomatch h⟩
  bytes := rfl
  sym := rfl
  entries _ _ := ⟨fun ⟨_, _, _, _, _, hy⟩ => (nomatch hy), fun h => (nomatch h)⟩
  nodes := by decide

/-- The pending entry is no part of the table. -/
theorem TableHeld.withPending {es : List (Code × Symbol)} {d : Decoder} (h : TableHeld es d)
    (y : Symbol) (code : Code) : TableHeld es { d with psym := y, pcode := code } :=
  ⟨h.state, h.tree, h.bytes, h.sym, h.entries, h.nodes⟩

section
variable {c : Config} {es : List (Code × Symbol)} {p : Code × Symbol} {v : State}
  (h : TableHeld es v.dec) (hl : Loadable c (es ++ [p])) (hpsym : v.dec.psym = p.2)
  (hpcode : v.dec.pcode = p.1)
include h hpcode

theorem TableHeld.nodes_add_missingNodes_le : v.dec.node.length + missingNodes v.dec ≤
    (codePaths ((es ++ [p]).map Prod.fst)).card := by
  obtain ⟨htree, -⟩ := Decoder.treeOk_iff.mp h.tree (.inl h.state)
  have hpaths := htree.card_codePaths_add_missingNodes (codes := es.map Prod.fst)
    fun code => by simp [h.entries]
  rw [List.map_append, List.map_singleton, ← hpcode]
  exact (Nat.add_le_add_right h.nodes _).trans hpaths

include hl

theorem TableHeld.not_codeConflict : ¬ codeConflict v.dec := by
  rintro ⟨code, y, hy, hconf⟩
  obtain ⟨hleft, hright⟩ :=
    hl.last_code_conflicts_with_none _ ((h.entries code y).mp hy)
  rw [hpcode] at hconf
  obtain rfl | hpre | hpre := hconf
  · exact hleft List.prefix_rfl
  · exact hleft hpre
  · exact hright hpre

include hpsym

/-- The last entry of a table that can be loaded is committed after the others. -/
theorem TableHeld.commit (hcfg : v.cfg = c) :
    ∃ t, exec .decCommit v = .next t ∧ t.cfg = c ∧ TableHeld (es ++ [p]) t.dec ∧
      t.dec.psym = [] ∧ t.dec.pcode = [] := by
  have hentry := hl.entry p (by simp)
  have hroom := h.nodes_add_missingNodes_le hpcode
  have hcount : v.dec.sym.length ≠ v.cfg.nSym := by
    rw [h.sym, List.length_map, hcfg]
    exact hl.length_lt_nSym.ne
  obtain ⟨-, -, hcommit⟩ := decCommitAddsExactlyThePendingEntry v h.state h.tree
    (hpsym ▸ hentry.symbol_ne_nil) (hpcode ▸ hentry.code_ne_nil)
    (by rw [hpsym, h.sym]; exact hl.last_symbol_notMem) (h.not_codeConflict hl hpcode)
  obtain ⟨t, hx, -, ⟨hcfg', -⟩, -, -, -, hdec, hlen, hheld⟩ :=
    hcommit hcount (by rw [hcfg]; exact hroom.trans hl.nodes)
  refine ⟨t, hx, hcfg'.trans hcfg, ⟨?_, (exec_decMove hx).treeOk h.tree, ?_, ?_, fun code y => ?_,
    hlen.trans_le hroom⟩, ?_, ?_⟩
  · rw [hdec]; exact h.state
  · rw [hdec]; exact h.bytes
  · rw [hdec, List.map_append, ← h.sym, hpsym]; rfl
  · rw [hheld, h.entries, hpcode, hpsym]; simp [Prod.ext_iff]
  · rw [hdec]
  · rw [hdec]

end

/-- The decoder has been given the entries `es` in this order, and nothing after them. -/
structure TableLoaded (c : Config) (es : List (Code × Symbol)) (u : State) : Prop where
  cfg : u.cfg = c
  table : TableHeld es u.dec
  psym : u.dec.psym = []
  pcode : u.dec.pcode = []

theorem tableLoaded_decStart (u : State) : TableLoaded u.cfg [] (after (exec .decStart u) u) :=
  ⟨rfl, tableHeld_freshDecoder, rfl, rfl⟩

theorem TableLoaded.after_loadEntry {c : Config} {es : List (Code × Symbol)} {p : Code × Symbol}
    {u : State} (h : TableLoaded c es u) (hl : Loadable c (es ++ [p])) :
    TableLoaded c (es ++ [p]) (loadEntry u p.1 p.2) := by
  have hload := h.table.state
  have hentry := hl.entry p (by simp)
  have hnamed := foldl_decAddCp ⟨h.cfg, rfl⟩ hload hentry.codePoints
    (by simpa [h.psym] using hentry.symbol_length)
  have hcoded := foldl_decAddBit hnamed hload (code := p.1)
    (by simpa [h.pcode] using hentry.code_length)
  simp only [h.psym, h.pcode, List.nil_append] at hcoded
  obtain ⟨hcfg, hdec⟩ := hcoded
  obtain ⟨t, hx, hcfg', htable, hpsym, hpcode⟩ :=
    TableHeld.commit (hdec ▸ h.table.withPending p.2 p.1) hl (by rw [hdec]) (by rw [hdec]) hcfg
  unfold loadEntry
  dsimp only
  rw [hx]
  exact ⟨hcfg', htable, hpsym, hpcode⟩

/-- A table that can be loaded is loaded by the commands, entry after entry. -/
theorem TableLoaded.foldl_loadEntry {c : Config} {es : List (Code × Symbol)} {u : State}
    (h : TableLoaded c [] u) (hl : Loadable c es) :
    TableLoaded c es (es.foldl (fun v p => loadEntry v p.1 p.2) u) := by
  induction es using List.reverseRecOn with
  | nil => exact h
  | append_singleton es p ih =>
    rw [List.foldl_concat]
    exact (ih hl.of_append).after_loadEntry hl

end Sys2Proof.Machine
end

section
/-! PROOFS, part 23. The round trip (47_bitstream_walker R315): in a balanced configuration the
decoder has room for the table of every run, so its entries can be loaded in any order. -/

namespace Sys2Proof.Machine

open Sys2Proof.Claims

/-! ### The paths of the encoder's tree (42_tree_builder R186) -/

/-- A path of one more bit ends at a child of the node before. -/
theorem followTree_concat {nodes : List EncNode} {k m : Nat} {c : Code} {b : Bit} :
    followTree nodes k (c ++ [b]) = some m ↔ ∃ i l r w, followTree nodes k c = some i ∧
      nodes[i]? = some (EncNode.internal l r w) ∧ m = if b then r else l := by
  rw [followTree_append, Option.bind_eq_some_iff]
  refine exists_congr fun i => ⟨fun ⟨hi, hm⟩ => ?_, fun ⟨l, r, w, hi, hn, hm⟩ => ⟨hi, ?_⟩⟩
  · unfold followTree at hm
    split at hm
    · next l r w hn => exact ⟨l, r, w, hi, hn, (Option.some.inj hm).symm⟩
    · cases hm
  · rw [followTree_cons hn, followTree, hm]

theorem isChild_of_internal {nodes : List EncNode} {i l r w : Nat}
    (h : nodes[i]? = some (EncNode.internal l r w)) (b : Bit) :
    IsChild nodes i (if b then r else l) := by
  cases b with
  | false => exact ⟨l, r, w, h, .inl rfl⟩
  | true => exact ⟨l, r, w, h, .inr rfl⟩

/-- The two children of a node tell its bits apart. -/
theorem bit_eq_of_child_eq {l r : Nat} (hlr : l ≠ r) :
    {b b' : Bit} → (if b then r else l) = (if b' then r else l) → b = b'
  | false, false, _ | true, true, _ => rfl
  | false, true, h => absurd h hlr
  | true, false, h => absurd h.symm hlr

section
variable {n root : Nat} {freq : List Nat} {nodes : List EncNode}
  (h : Forest n freq nodes [root])
include h

/-- No bit of a path leads to a larger id. -/
theorem Forest.followTree_le {k m : Nat} {c : Code} (hm : followTree nodes k c = some m) :
    m ≤ k := by
  induction c using List.reverseRecOn generalizing m with
  | nil => cases hm; exact le_rfl
  | append_singleton c b ih =>
    obtain ⟨i, l, r, w, hi, hn, rfl⟩ := followTree_concat.mp hm
    exact (h.child_lt (isChild_of_internal hn b)).le.trans (ih hi)

/-- No path of one bit or more leads to the root. -/
theorem Forest.followTree_concat_ne_root (k : Nat) (c : Code) (b : Bit) :
    followTree nodes k (c ++ [b]) ≠ some root := by
  intro hc
  obtain ⟨i, l, r, w, -, hn, hroot⟩ := followTree_concat.mp hc
  exact h.orphan root (List.mem_singleton_self root) i (hroot ▸ isChild_of_internal hn b)

/-- A node has one path from the root. -/
theorem Forest.path_unique {k : Nat} {p q : Code} (hp : followTree nodes root p = some k)
    (hq : followTree nodes root q = some k) : p = q := by
  induction p using List.reverseRecOn generalizing k q with
  | nil =>
    cases hp
    obtain rfl | ⟨q, b, rfl⟩ := List.eq_nil_or_concat' q
    · rfl
    · exact absurd hq (h.followTree_concat_ne_root _ _ _)
  | append_singleton p b ih =>
    obtain rfl | ⟨q, b', rfl⟩ := List.eq_nil_or_concat' q
    · cases hq
      exact absurd hp (h.followTree_concat_ne_root _ _ _)
    · have hne : k ∉ [root] := fun hk =>
        h.followTree_concat_ne_root _ _ _ (List.mem_singleton.mp hk ▸ hp)
      obtain ⟨i, l, r, w, hi, hn, hk⟩ := followTree_concat.mp hp
      obtain ⟨i', l', r', w', hi', hn', hk'⟩ := followTree_concat.mp hq
      have hchild : IsChild nodes i k := hk ▸ isChild_of_internal hn b
      have hchild' : IsChild nodes i' k := hk' ▸ isChild_of_internal hn' b'
      have hlt := (h.child_lt hchild).trans hchild.lt_length
      obtain rfl : i = i' := (h.parent k hlt hne).unique hchild hchild'
      cases hn.symm.trans hn'
      obtain ⟨-, -, hlr⟩ := h.below i l r w hn
      rw [ih hi hi', bit_eq_of_child_eq hlr (hk.symm.trans hk')]

/-- Codes that are paths of the tree have at most one path per node. -/
theorem Forest.card_codePaths_le {codes : List Code}
    (hcodes : ∀ c ∈ codes, ∃ m, followTree nodes root c = some m) :
    (codePaths codes).card ≤ nodes.length := by
  have hroot := h.ids root (List.mem_singleton_self root)
  have hsome {p : Code} (hp : p ∈ codePaths codes) : ∃ k, followTree nodes root p = some k := by
    obtain rfl | ⟨c, hc, q, rfl⟩ := mem_codePaths.mp hp
    · exact ⟨root, rfl⟩
    · obtain ⟨m, hm⟩ := hcodes _ hc
      rw [followTree_append] at hm
      obtain ⟨k, hk, -⟩ := Option.bind_eq_some_iff.mp hm
      exact ⟨k, hk⟩
  calc (codePaths codes).card
    _ ≤ ((Finset.range nodes.length).map Function.Embedding.some).card := by
      refine Finset.card_le_card_of_injOn (followTree nodes root) (fun p hp => ?_)
        fun p hp q _ hpq => ?_
      · obtain ⟨k, hk⟩ := hsome hp
        have hle := h.followTree_le hk
        rw [hk]
        exact Finset.mem_coe.mpr
          (Finset.mem_map_of_mem _ (Finset.mem_range.mpr (by omega)))
      · obtain ⟨k, hk⟩ := hsome hp
        exact h.path_unique hk (hpq ▸ hk)
    _ = nodes.length := by rw [Finset.card_map, Finset.card_range]

end

/-- The code table of `n` symbols has at most `2 n` paths, or the root's alone. -/
theorem card_codePaths_codeTable (n : Nat) (freq : List Nat) :
    (codePaths (codeTable n (buildTree n freq).1 (buildTree n freq).2)).card ≤ max 1 (2 * n) := by
  obtain rfl | rfl | hn : n = 0 ∨ n = 1 ∨ 2 ≤ n := by omega
  · exact (by decide : (codePaths []).card ≤ 1)
  · exact (by decide : (codePaths [[false]]).card ≤ 2)
  · have hroot := buildTree_root (by omega : n ≠ 0) freq
    have hf := buildTree_forest n freq
    rw [hroot, Option.toList_some] at hf
    have hlen := buildTree_length n freq
    refine (hf.card_codePaths_le fun c hc => ?_).trans (by omega)
    obtain ⟨i, hi, rfl⟩ := List.getElem_of_mem hc
    obtain ⟨r, hr, m, w, hm, -⟩ := (buildTree_leafTree n freq).leafPath_codeTable (by omega)
      (hi.trans_eq (codeTable_length _ _ _))
    cases hr.symm.trans hroot
    rw [List.getD_eq_getElem _ _ hi] at hm
    exact ⟨m, hm⟩

/-! ### What a whole run keeps -/

section
variable {s : State} {P : Encoder → Prop}
  (hmove : ∀ {e e' : Encoder} {w w' : Word}, EncMove s.cfg e w e' w' → P e → P e')
include hmove

/-- A command keeps what every move of the encoder keeps. -/
theorem after_exec_keeps (i : Instr) {u d : State} (h : u.cfg = s.cfg ∧ P u.enc) :
    (after (exec i u) d).cfg = s.cfg ∧ P (after (exec i u) d).enc := by
  obtain ⟨hcfg, he⟩ := h
  obtain ⟨t, hx⟩ := exec_next i u
  have hm := exec_encMove hx
  rw [encMove, hcfg] at hm
  rw [hx]
  exact ⟨(exec_cfg hx).trans hcfg, hmove hm he⟩

theorem pushText_keeps {m : Mode} (hstart : P (freshEncoder m)) (text : List CP) :
    (pushText s m text).cfg = s.cfg ∧ P (pushText s m text).enc := by
  induction text using List.reverseRecOn with
  | nil => rw [pushText_nil]; exact ⟨rfl, hstart⟩
  | append_singleton text cp ih =>
    exact pushText_concat s m text cp ▸
      after_exec_keeps hmove .encPush (u := (pushText s m text).setArg0 cp) (d := s) ih

/-- What a run's first state has and every move keeps, its last state has. -/
theorem encodeText_keeps {m : Mode} (hstart : P (freshEncoder m)) (text : List CP) :
    (encodeText s m text).cfg = s.cfg ∧ P (encodeText s m text).enc :=
  after_exec_keeps hmove .encPack (d := s) (after_exec_keeps hmove .encAssign
    (after_exec_keeps hmove .encBuild (after_exec_keeps hmove .encEnd (d := s)
      (pushText_keeps hmove hstart text))))

end

/-- A run keeps its memories within their capacities (10_state R40). -/
theorem encodeText_memoryWf {s : State} (hc : s.cfg.wf = true) (m : Mode) (text : List CP) :
    (encodeText s m text).enc.memoryWf s.cfg = true := by
  have hstart : (freshEncoder m).analysisOk :=
    (EncMove.start (c := s.cfg) (e := Encoder.empty) (w := 0) m).analysisOk
      fun hr => by simp [Encoder.inRun, Encoder.empty] at hr
  exact (encodeText_keeps (P := fun e => e.analysisOk ∧ e.memoryWf s.cfg = true)
    (fun hm h => ⟨hm.analysisOk h.1, hm.memoryWf hc h.1 h.2⟩)
    ⟨hstart, Encoder.memoryWf_iff.mpr (by simp [freshEncoder, Encoder.empty])⟩ text).2.2

/-- An analysis that has not failed has taken code points only (41_frequency_analyzer R154). -/
theorem pushText_error_or_codePoints (s : State) (m : Mode) (text : List CP) :
    (pushText s m text).enc.state = .error ∨ ∀ cp ∈ text, cp ≤ 0x10FFFF := by
  induction text using List.reverseRecOn with
  | nil => exact .inr fun _ hcp => (nomatch hcp)
  | append_singleton text cp ih =>
    refine or_iff_not_imp_left.mpr fun hne => ?_
    rw [pushText_concat] at hne
    obtain ⟨hs, v, e, hb, -⟩ := encCommand_of_ne_error hne
    have hload : (pushText s m text).enc.state = .loading := List.mem_singleton.mp hs
    have htext := ih.resolve_left (by rw [hload]; decide)
    exact List.forall_mem_append.mpr
      ⟨htext, List.forall_mem_singleton.mpr (encPushBody_ok_iff.mp hb).1⟩

theorem codePoints_of_analyzed {s : State} {m : Mode} {text : List CP}
    (h : (analyse s m text).enc.state = .analyzed) : ∀ cp ∈ text, cp ≤ 0x10FFFF := by
  rw [analyse_eq] at h
  obtain ⟨hs, -⟩ := encCommand_of_ne_error (by rw [h]; decide)
  exact (pushText_error_or_codePoints s m text).resolve_left
    (by rw [List.mem_singleton.mp hs]; decide)

/-! ### The artifacts of a run fit the decoder -/

theorem Config.balanced_iff {c : Config} :
    c.balanced = true ↔ 2 * c.nSym ≤ c.dnodeCap ∧ c.streamCap * c.maxCodeLen ≤ c.byteCap * 8 ∧
      c.streamCap * c.wMax ≤ c.outCap := by
  simp [Config.balanced, and_assoc]

theorem Config.one_le_nSym {c : Config} (h : c.wf = true) : 1 ≤ c.nSym := by
  simp only [Config.wf, Bool.and_eq_true, decide_eq_true_eq] at h
  omega

/-- The entry of the symbol with index `i` (45_encoder_readout R251). -/
def tableEntry (e : Encoder) (i : Nat) : Code × Symbol := (e.code.getD i [], e.sym.getD i [])

section
variable {e : Encoder} {order : List Nat}

/-- Loading in another order permutes the symbols of the table. -/
theorem map_snd_tableEntry_perm (ho : order.Perm (List.range e.sym.length)) :
    ((order.map (tableEntry e)).map Prod.snd).Perm e.sym := by
  have hsym := map_getD_range e.sym []
  rw [List.map_map]
  exact (ho.map _).trans (.of_eq hsym)

/-- Loading in another order permutes the codes of the table. -/
theorem map_fst_tableEntry_perm (hlength : e.code.length = e.sym.length)
    (ho : order.Perm (List.range e.sym.length)) :
    ((order.map (tableEntry e)).map Prod.fst).Perm e.code := by
  have hcode := map_getD_range e.code []
  rw [hlength] at hcode
  rw [List.map_map]
  exact (ho.map _).trans (.of_eq hcode)

end

section
variable {text : List CP} {e : Encoder} (h : PackedRun text e)
include h

theorem PackedRun.prefixCodes : PrefixCodes e.sym.length e.code := by
  rw [h.code]
  exact (buildTree_leafTree _ _).codeTable_prefixCodes

/-- The symbols of the table are made of code points of the text. -/
theorem PackedRun.mem_text {y : Symbol} (hy : y ∈ e.sym) {cp : CP} (hcp : cp ∈ y) : cp ∈ text := by
  rw [h.order, List.mem_eraseDups] at hy
  rw [← h.text_eq]
  exact List.mem_flatten.mpr ⟨y, hy, hcp⟩

/-- The text of a run within its capacities is no longer than its symbols can be. -/
theorem PackedRun.text_length_le {c : Config} (hm : e.memoryWf c = true) :
    text.length ≤ c.streamCap * c.wMax := by
  obtain ⟨-, hsym, -, hstream, -⟩ := Encoder.memoryWf_iff.mp hm
  have hlen (l : Nat) (hl : l ∈ (streamSymbols e).map List.length) : l ≤ c.wMax := by
    obtain ⟨y, hy, rfl⟩ := List.mem_map.mp hl
    exact hsym y (by rw [h.order, List.mem_eraseDups]; exact hy)
  calc text.length
    _ = ((streamSymbols e).map List.length).sum := by rw [← h.text_eq, List.length_flatten]
    _ ≤ ((streamSymbols e).map List.length).length • c.wMax := List.sum_le_card_nsmul _ _ hlen
    _ = e.stream.length * c.wMax := by simp [streamSymbols]
    _ ≤ c.streamCap * c.wMax := Nat.mul_le_mul_right _ hstream

/-- The entries of a run can be loaded in any order. -/
theorem PackedRun.loadable {c : Config} {order : List Nat} (hc : 1 ≤ c.nSym)
    (hnodes : 2 * c.nSym ≤ c.dnodeCap) (hm : e.memoryWf c = true)
    (hcps : ∀ cp ∈ text, cp ≤ 0x10FFFF) (ho : order.Perm (List.range e.sym.length)) :
    Loadable c (order.map (tableEntry e)) := by
  obtain ⟨hsymCap, hsymLen, -, -, -, -, -, hcodeLen, -⟩ := Encoder.memoryWf_iff.mp hm
  obtain ⟨hlength, hne, hprefix⟩ := h.prefixCodes
  have hsyms := map_snd_tableEntry_perm ho
  have hcodes := map_fst_tableEntry_perm hlength ho
  refine ⟨fun p hp => ?entry, hsyms.nodup_iff.mpr h.table.nodup,
    (hcodes.pairwise_iff fun hab => hab.symm).mpr hprefix, ?count, ?nodes⟩
  case entry =>
    have hk := hcodes.mem_iff.mp (List.mem_map_of_mem hp)
    have hy := hsyms.mem_iff.mp (List.mem_map_of_mem hp)
    exact ⟨hne _ hk, hcodeLen _ hk, h.table.nonempty _ hy, hsymLen _ hy,
      fun cp hcp => hcps cp (h.mem_text hy hcp)⟩
  case count =>
    rw [← List.length_map Prod.snd, hsyms.length_eq]
    exact hsymCap
  case nodes =>
    have hcard := card_codePaths_codeTable e.sym.length e.freq
    rw [← h.code] at hcard
    have hle := (Finset.card_le_card (codePaths_mono hcodes.subset)).trans hcard
    omega

end

/-- Artifacts that can be loaded are held by the decoder after the commands that load them. -/
theorem artifactsLoaded_loadArtifacts {c : Config} {e : Encoder} {order : List Nat} {u : State}
    (hcfg : u.cfg = c) (hl : Loadable c (order.map (tableEntry e)))
    (ho : order.Perm (List.range e.sym.length)) (hbytes : e.bytes.length ≤ c.byteCap) :
    (loadArtifacts e order u).cfg = c ∧ ArtifactsLoaded e (loadArtifacts e order u).dec := by
  subst hcfg
  have htable : TableLoaded u.cfg (order.map (tableEntry e))
      (order.foldl (fun v i => loadEntry v (e.code.getD i []) (e.sym.getD i []))
        (after (exec .decStart u) u)) := by
    have hfold := (tableLoaded_decStart u).foldl_loadEntry hl
    rwa [List.foldl_map] at hfold
  unfold loadArtifacts
  dsimp only
  generalize order.foldl _ _ = v at htable ⊢
  obtain ⟨hvcfg, hheld, hpsym, hpcode⟩ := htable
  have hpadded := after_decSetPad ⟨hvcfg, rfl⟩ hheld.state e.pad
  obtain ⟨hcfg, hdec⟩ := foldl_decPushByte hpadded hheld.state (bytes := e.bytes)
    (by simpa [hheld.bytes] using hbytes)
  rw [hdec]
  refine ⟨hcfg, hheld.state, hheld.tree, hpsym, hpcode, rfl, rfl, ?_, fun i hi => ?_⟩
  · simp [hheld.bytes]
  · exact (hheld.entries _ _).mpr (List.mem_map_of_mem (f := tableEntry e)
      (ho.mem_iff.mpr (List.mem_range.mpr hi)))

/-! ### The statement -/

/-- Settles O52: the artifacts of the run fit the decoder, which then decodes them to its text. -/
theorem roundTripThroughTheCommands : Obligations.RoundTripThroughTheCommands := by
  intro s m text hwf hbal hpacked u order hcfg ho
  obtain ⟨hanalyzed, hrun⟩ := encodeText_packedRun hpacked
  obtain ⟨hnodes, -, hout⟩ := Config.balanced_iff.mp hbal
  have hmem := encodeText_memoryWf hwf m text
  obtain ⟨-, -, -, -, -, -, -, -, hbytes⟩ := Encoder.memoryWf_iff.mp hmem
  have hl := hrun.loadable (Config.one_le_nSym hwf) hnodes hmem
    (codePoints_of_analyzed hanalyzed) ho
  obtain ⟨hcfg', hloaded⟩ := artifactsLoaded_loadArtifacts hcfg hl ho hbytes
  exact ⟨_, hrun.exec_decRun hloaded (hcfg' ▸ (hrun.text_length_le hmem).trans hout), rfl, rfl, rfl,
    rfl, rfl, rfl⟩

end Sys2Proof.Machine
end

section
/-! PROOFS, part 24. The decoder readouts (48_decoder_readout R340 to R344): a readout reports a
count, or the code point its operand names, or E_INDEX where there is none. -/

namespace Sys2Proof.Machine

open Sys2Proof.Claims

theorem decReadout_ok {states : List DecState} {read : Decoder → Except ResultCode Word} {s : State}
    {v : Word} (h : s.dec.state ∈ states) (hr : read s.dec = .ok v) :
    decReadout states read s = s.setReport v .ok .readout :=
  decCommand_ok h (except_map_ok.mpr ⟨v, hr, rfl⟩)

/-- A command that is the readout of one value. -/
theorem decReads_of_exec {i : Instr} {states : List DecState} {value : Decoder → Nat}
    (h : ∀ s, exec i s = .next (decReadout states (fun d => .ok (countWord (value d))) s)) :
    decReads i states value := by
  intro s
  rw [h s]
  exact ⟨fun hs => congrArg Host.Outcome.next (decReadout_ok hs rfl), decCommand_gate_failsDec⟩

/-! ### The statement -/

/-- Settles O51: three commands are the readout of one count, and DEC_RD_OUTCP is that of the code
point its operand is an index of. -/
theorem decoderReadouts : Obligations.DecoderReadouts := by
  refine ⟨decReads_of_exec fun _ => rfl, decReads_of_exec fun _ => rfl,
    decReads_of_exec fun _ => rfl, fun s => ⟨fun hs v hv => ?found, fun hs hlen => ?missing,
    fun hs => decCommand_gate_failsDec (mt List.mem_singleton.mp hs)⟩⟩
  case found =>
    exact congrArg Host.Outcome.next
      (decReadout_ok (List.mem_singleton.mpr hs) (indexOperand_ok.mpr hv))
  case missing =>
    exact decCommand_failsDec (List.mem_singleton.mpr hs)
      (congrArg (Except.map _) (indexOperand_error.mpr ⟨hlen, rfl⟩))

end Sys2Proof.Machine
end

section
/-! PROOFS, part 25. The two units (60_exceptions R363, R372): a command completes or raises in its
own unit, touches nothing of the other, and sees nothing of it. -/

namespace Sys2Proof.Machine

open Sys2Proof.Claims
open Sys2Proof.Laws.UnitRange (unitOf)

/-! ### How a unit command ends (40_control R131, R132) -/

/-- ENC_START alone of the encoder commands has no states column (30_encoding R103). -/
theorem encoderStates_of_unit {i : Instr} (hu : unitOf i = some .encoder) :
    i = .encStart ∨ ∃ states, encoderStates i = some states := by
  cases i with
  | encStart => exact .inl rfl
  | encPush | encEnd | encBuild | encAssign | encPack | encRdNsym | encRdSymlen | encRdSymcp
    | encRdFreq | encRdCodelen | encRdCodebit | encRdNstream | encRdNbytes | encRdByte
    | encRdPad => exact .inr ⟨_, rfl⟩
  | _ => cases hu

/-- DEC_START alone of the decoder commands has no states column (30_encoding R103). -/
theorem decoderStates_of_unit {i : Instr} (hu : unitOf i = some .decoder) :
    i = .decStart ∨ ∃ states, decoderStates i = some states := by
  cases i with
  | decStart => exact .inl rfl
  | decAddCp | decAddBit | decCommit | decSetPad | decPushByte | decRun | decRdNsym | decRdOutlen
    | decRdOutcp | decRdNent => exact .inr ⟨_, rfl⟩
  | _ => cases hu

/-- Two states with the same parameters and operands. -/
structure SameInputs (s s' : State) : Prop where
  cfg : s.cfg = s'.cfg
  arg0 : s.arg0 = s'.arg0
  arg1 : s.arg1 = s'.arg1

/-- The body of a gated encoder command is a function of the parameters and the operands. -/
theorem exec_of_encoderStates_sameInputs {i : Instr} {states : List EncState} {s s' : State}
    (hg : encoderStates i = some states) (h : SameInputs s s') :
    ∃ body, exec i s = .next (encCommand (stageOf i) states body s) ∧
      exec i s' = .next (encCommand (stageOf i) states body s') := by
  obtain ⟨cfg, arg0, arg1⟩ := s
  obtain ⟨rfl, rfl, rfl⟩ := h
  cases i <;> cases hg <;> exact ⟨_, rfl, rfl⟩

/-- DEC_RUN goes on past its table checks, to its gate or its walk (47_bitstream_walker R310). -/
theorem exec_decRun_of_not_tableIncomplete {s : State}
    (h : ¬ (s.dec.state = .load ∧ tableIncomplete s.dec = true)) :
    exec .decRun s = .next (decCommand .decode [.load] (decRunBody s.cfg) s) :=
  congrArg Host.Outcome.next (if_neg h)

/-- The body of a gated decoder command is a function of the parameters and the operands; DEC_RUN
checks the table, and fails, before that (30_encoding R103, 47_bitstream_walker R310). -/
theorem exec_of_decoderStates_sameInputs {i : Instr} {states : List DecState} {s s' : State}
    (hg : decoderStates i = some states) (h : SameInputs s s') (hd : s.dec = s'.dec) :
    (∃ body, exec i s = .next (decCommand (stageOf i) states body s) ∧
      exec i s' = .next (decCommand (stageOf i) states body s')) ∨
    (i = .decRun ∧ exec i s = .next (raise .decoder .eTable .artifactLoad s) ∧
      exec i s' = .next (raise .decoder .eTable .artifactLoad s')) := by
  cases i with
  | decRun =>
    cases hg
    by_cases ht : s.dec.state = .load ∧ tableIncomplete s.dec = true
    · exact .inr ⟨rfl, exec_decRun_of_tableIncomplete ht.1 ht.2,
        exec_decRun_of_tableIncomplete (hd ▸ ht.1) (hd ▸ ht.2)⟩
    · exact .inl ⟨_, exec_decRun_of_not_tableIncomplete ht,
        h.cfg ▸ exec_decRun_of_not_tableIncomplete (hd ▸ ht)⟩
  | decAddCp | decAddBit | decCommit | decSetPad | decPushByte | decRdNsym | decRdOutlen
    | decRdOutcp | decRdNent =>
    obtain ⟨cfg, arg0, arg1⟩ := s
    obtain ⟨rfl, rfl, rfl⟩ := h
    cases hg
    exact .inl ⟨_, rfl, rfl⟩
  | _ => cases hg

/-- Everything an encoder command can do: complete with what it wrote to E and ENC_ERR, or raise
from its stage. -/
theorem exec_encoder_cases {i : Instr} {s t : State} (hu : unitOf i = some .encoder)
    (h : exec i s = .next t) :
    (∃ v e w, t = complete (stageOf i) v ((s.setEnc e).setEncErr w)) ∨
    ∃ rc, t = raise .encoder rc (stageOf i) s := by
  obtain rfl | ⟨states, hg⟩ := encoderStates_of_unit hu
  · obtain ⟨m, -, rfl⟩ | ⟨rc, -, rfl⟩ := exec_encStart_cases h
    · exact .inl ⟨_, _, _, rfl⟩
    · exact .inr ⟨rc, rfl⟩
  · obtain ⟨body, hx⟩ := exec_of_encoderStates hg s
    cases hx.symm.trans h
    obtain ⟨-, v, e, -, he⟩ | ⟨-, rc, -, he⟩ | ⟨-, he⟩ := encCommand_cases (stageOf i) states body s
    · exact .inl ⟨v, e, s.encErr, he⟩
    · exact .inr ⟨rc, he⟩
    · exact .inr ⟨.eState, he⟩

/-- The stages decoder command `i` fails from: its own, or ARTIFACT_LOAD for the table checks of
DEC_RUN (47_bitstream_walker R310). -/
def failsFrom (i : Instr) (rc : ResultCode) (st : Stage) : Prop :=
  st = stageOf i ∨ (i = .decRun ∧ st = .artifactLoad ∧ rc = .eTable)

/-- Everything a decoder command can do: complete with what it wrote to D and DEC_ERR, or raise from
one of its stages. -/
theorem exec_decoder_cases {i : Instr} {s t : State} (hu : unitOf i = some .decoder)
    (h : exec i s = .next t) :
    (∃ v d w, t = complete (stageOf i) v ((s.setDec d).setDecErr w)) ∨
    ∃ rc st, failsFrom i rc st ∧ t = raise .decoder rc st s := by
  obtain rfl | ⟨states, hg⟩ := decoderStates_of_unit hu
  · cases h
    exact .inl ⟨_, _, _, rfl⟩
  · obtain ⟨body, hx, -⟩ | ⟨hi, hx, -⟩ := exec_of_decoderStates_sameInputs hg ⟨rfl, rfl, rfl⟩ rfl
    · cases hx.symm.trans h
      obtain ⟨-, v, d, -, he⟩ | ⟨-, rc, -, he⟩ | ⟨-, he⟩ :=
        decCommand_cases (stageOf i) states body s
      · exact .inl ⟨v, d, s.decErr, he⟩
      · exact .inr ⟨rc, _, .inl rfl, he⟩
      · exact .inr ⟨.eState, _, .inl rfl, he⟩
    · cases hx.symm.trans h
      exact .inr ⟨_, _, .inr ⟨hi, rfl, rfl⟩, rfl⟩

/-- A command that does not report success is a unit's and has raised (60_exceptions R363). -/
theorem exec_failure_cases {i : Instr} {s t : State} (h : exec i s = .next t)
    (hrc : t.lastRc ≠ .ok) :
    (unitOf i = some .encoder ∧ ∃ rc, t = raise .encoder rc (stageOf i) s) ∨
    (unitOf i = some .decoder ∧ ∃ rc st, failsFrom i rc st ∧ t = raise .decoder rc st s) := by
  cases hu : unitOf i with
  | none =>
    cases i with
    | nop | sreset => cases h; exact absurd rfl hrc
    | _ => cases hu
  | some u =>
    cases u with
    | encoder =>
      obtain ⟨v, e, w, rfl⟩ | hraise := exec_encoder_cases hu h
      · exact absurd rfl hrc
      · exact .inl ⟨rfl, hraise⟩
    | decoder =>
      obtain ⟨v, d, w, rfl⟩ | hraise := exec_decoder_cases hu h
      · exact absurd rfl hrc
      · exact .inr ⟨rfl, hraise⟩

/-! ### What a unit command sees (60_exceptions R372) -/

/-- Two states with the same encoder unit and report. -/
structure SameEncAnswer (t t' : State) : Prop where
  enc : t.enc = t'.enc
  encErr : t.encErr = t'.encErr
  report : reports t t'.result t'.lastRc t'.lastStage

/-- Two states with the same decoder unit and report. -/
structure SameDecAnswer (t t' : State) : Prop where
  dec : t.dec = t'.dec
  decErr : t.decErr = t'.decErr
  report : reports t t'.result t'.lastRc t'.lastStage

/-! A unit's command on two states that agree in its unit. -/

section
variable {s s' : State} {i : Instr} {t t' : State} (hin : SameInputs s s')

section
variable (he : s.enc = s'.enc) (hw : s.encErr = s'.encErr)
include he hw

theorem raise_sameEncAnswer (rc : ResultCode) (st : Stage) :
    SameEncAnswer (raise .encoder rc st s) (raise .encoder rc st s') where
  enc := by simp [he]
  encErr := by simp [he, hw]
  report := ⟨rfl, rfl, rfl⟩

theorem encCommand_sameEncAnswer (st : Stage) (states : List EncState)
    (body : Encoder → Except ResultCode (Word × Encoder)) :
    SameEncAnswer (encCommand st states body s) (encCommand st states body s') := by
  by_cases hs : s.enc.state ∈ states
  · cases hb : body s.enc with
    | ok r =>
      rw [encCommand_ok hs hb, encCommand_ok (he ▸ hs) (he ▸ hb)]
      exact ⟨rfl, hw, rfl, rfl, rfl⟩
    | error rc =>
      rw [encCommand_error hs hb, encCommand_error (he ▸ hs) (he ▸ hb)]
      exact raise_sameEncAnswer he hw rc st
  · rw [encCommand_gate hs, encCommand_gate (he ▸ hs)]
    exact raise_sameEncAnswer he hw .eState st

include hin in
theorem exec_encStart_sameEncAnswer (h : exec .encStart s = .next t)
    (h' : exec .encStart s' = .next t') : SameEncAnswer t t' := by
  have hmode : modeOperand s.arg0 = modeOperand s'.arg0 := congrArg modeOperand hin.arg0
  obtain ⟨m, hm, rfl⟩ | ⟨rc, hm, rfl⟩ := exec_encStart_cases h
  · obtain ⟨m', hm', rfl⟩ | ⟨rc', hm', -⟩ := exec_encStart_cases h'
    · cases hm.symm.trans (hmode.trans hm')
      exact ⟨rfl, rfl, rfl, rfl, rfl⟩
    · cases hm.symm.trans (hmode.trans hm')
  · obtain ⟨m', hm', -⟩ | ⟨rc', hm', rfl⟩ := exec_encStart_cases h'
    · cases hm.symm.trans (hmode.trans hm')
    · cases hm.symm.trans (hmode.trans hm')
      exact raise_sameEncAnswer he hw rc .analysis

include hin in
/-- An encoder command sees E, ENC_ERR, the operands and the parameters. -/
theorem exec_sameEncAnswer (hu : unitOf i = some .encoder) (h : exec i s = .next t)
    (h' : exec i s' = .next t') : SameEncAnswer t t' := by
  obtain rfl | ⟨states, hg⟩ := encoderStates_of_unit hu
  · exact exec_encStart_sameEncAnswer hin he hw h h'
  · obtain ⟨body, hx, hx'⟩ := exec_of_encoderStates_sameInputs hg hin
    cases hx.symm.trans h
    cases hx'.symm.trans h'
    exact encCommand_sameEncAnswer he hw _ states body

end

section
variable (hd : s.dec = s'.dec) (hw : s.decErr = s'.decErr)
include hd hw

theorem raise_sameDecAnswer (rc : ResultCode) (st : Stage) :
    SameDecAnswer (raise .decoder rc st s) (raise .decoder rc st s') where
  dec := by simp [hd]
  decErr := by simp [hd, hw]
  report := ⟨rfl, rfl, rfl⟩

theorem decCommand_sameDecAnswer (st : Stage) (states : List DecState)
    (body : Decoder → Except ResultCode (Word × Decoder)) :
    SameDecAnswer (decCommand st states body s) (decCommand st states body s') := by
  by_cases hs : s.dec.state ∈ states
  · cases hb : body s.dec with
    | ok r =>
      rw [decCommand_ok hs hb, decCommand_ok (hd ▸ hs) (hd ▸ hb)]
      exact ⟨rfl, hw, rfl, rfl, rfl⟩
    | error rc =>
      rw [decCommand_error hs hb, decCommand_error (hd ▸ hs) (hd ▸ hb)]
      exact raise_sameDecAnswer hd hw rc st
  · rw [decCommand_gate hs, decCommand_gate (hd ▸ hs)]
    exact raise_sameDecAnswer hd hw .eState st

include hin in
/-- A decoder command sees D, DEC_ERR, the operands and the parameters. -/
theorem exec_sameDecAnswer (hu : unitOf i = some .decoder) (h : exec i s = .next t)
    (h' : exec i s' = .next t') : SameDecAnswer t t' := by
  obtain rfl | ⟨states, hg⟩ := decoderStates_of_unit hu
  · cases h
    cases h'
    exact ⟨rfl, rfl, rfl, rfl, rfl⟩
  · obtain ⟨body, hx, hx'⟩ | ⟨-, hx, hx'⟩ := exec_of_decoderStates_sameInputs hg hin hd
    · cases hx.symm.trans h
      cases hx'.symm.trans h'
      exact decCommand_sameDecAnswer hd hw _ states body
    · cases hx.symm.trans h
      cases hx'.symm.trans h'
      exact raise_sameDecAnswer hd hw .eTable .artifactLoad

end

end

/-! ### The statements -/

/-- Settles O17: a unit command that completes has written its own unit, and so has one that
raises. -/
theorem commandsLeaveTheOtherUnitAlone : Obligations.CommandsLeaveTheOtherUnitAlone := by
  intro i s t h
  rw [isEncoderCommand_iff, isDecoderCommand_iff]
  refine ⟨fun hu => ?encoder, fun hu => ?decoder⟩
  case encoder =>
    obtain ⟨v, e, w, rfl⟩ | ⟨rc, rfl⟩ := exec_encoder_cases hu h <;> simp
  case decoder =>
    obtain ⟨v, d, w, rfl⟩ | ⟨rc, st, -, rfl⟩ := exec_decoder_cases hu h <;> simp

/-- Settles O18: the same command runs the same body on the same unit. -/
theorem commandsDoNotSeeTheOtherUnit : Obligations.CommandsDoNotSeeTheOtherUnit := by
  intro i s s' t t' hcfg harg0 harg1 h h'
  rw [isEncoderCommand_iff, isDecoderCommand_iff]
  refine ⟨fun hu he hw => ?encoder, fun hu hd hw => ?decoder⟩
  case encoder =>
    obtain ⟨henc, herr, hrep⟩ := exec_sameEncAnswer ⟨hcfg, harg0, harg1⟩ he hw hu h h'
    exact ⟨henc, herr, hrep⟩
  case decoder =>
    obtain ⟨hdec, herr, hrep⟩ := exec_sameDecAnswer ⟨hcfg, harg0, harg1⟩ hd hw hu h h'
    exact ⟨hdec, herr, hrep⟩

/-- Settles O19: the engine step is the command, which has raised in its unit, then PENDING
cleared. -/
theorem failingCommandEntersErrorAndRecordsTheCause :
    Obligations.FailingCommandEntersErrorAndRecordsTheCause := by
  intro s t i rest hp hm h hrc
  obtain ⟨u, hx, hu⟩ := engineStep_legal (s := s.setMoves rest) hp (decode_encode i)
  have hstep : step s = .next (u.setPending none) := (step_of_engine_move hm).trans hu
  cases hstep.symm.trans h
  rw [isEncoderCommand_iff, isDecoderCommand_iff, status_busy]
  obtain ⟨hunit, rc, rfl⟩ | ⟨hunit, rc, st, hst, rfl⟩ := exec_failure_cases hx hrc
  · simp [hunit, errWord_eq_errValue]
  · simpa [hunit, errWord_eq_errValue, failsFrom] using hst

end Sys2Proof.Machine
end

section
/-! PROOFS, part 26. An idle block, the end of a run, and the reset step (60_exceptions R374,
30_encoding R118, 70_reset_and_hazards R400). -/

namespace Sys2Proof.Machine

/-! ### The end of a run (30_encoding R118) -/

theorem Move.isHost_iff {m : Move} : m.isHost = true ↔ ∃ op, m = .host op := by
  cases m <;> simp [Move.isHost]

theorem State.ended_iff {s : State} :
    s.ended = true ↔ s.pending = none ∧ ∀ op, Move.host op ∉ s.moves := by
  simp only [State.ended, State.busy, Bool.and_eq_true, Bool.not_eq_true', List.any_eq_false,
    Move.isHost_iff, Option.isSome_eq_false_iff, Option.isNone_iff_eq_none]
  constructor
  · rintro ⟨hmoves, hp⟩
    exact ⟨hp, fun op hop => hmoves _ hop ⟨op, rfl⟩⟩
  · rintro ⟨hp, hmoves⟩
    exact ⟨fun m hm ⟨op, hop⟩ => hmoves op (hop ▸ hm), hp⟩

/-! ### The reset step (70_reset_and_hazards R400) -/

theorem step_of_reset_move {s : State} {rest : List Move} (hm : s.moves = .reset :: rest) :
    step s = .next (hardReset (s.setMoves rest)) := by
  simp only [step, nextStep, hm, takeMove]

theorem hardReset_status (s : State) : (hardReset s).status = 0x00000000 :=
  calc (hardReset s).status
    _ = State.reset.status := rfl
    _ = 0x00000000 := by decide

/-! ### The statements -/

/-- Settles O7: with nothing pending the engine's step changes nothing, and a run stops, with its
observation, exactly where it has ended. -/
theorem idleBlockHoldsAllState : Obligations.IdleBlockHoldsAllState := by
  refine ⟨fun s hm hp => ?idle, fun s => State.ended_iff, fun s rest hended hm => ?engine,
    fun s n hended => ⟨runProgram_of_ended hended n, observation_eq_some.mpr ⟨hended, rfl⟩⟩,
    fun s hended => ?unended⟩
  case idle => exact (step_of_moves_nil hm).trans (engineStep_of_idle hp)
  case engine =>
    exact (step_of_engine_move hm).trans
      (engineStep_of_idle (s := s.setMoves rest) (State.ended_iff.mp hended).1)
  case unended => exact if_neg (ne_true_of_eq_false hended)

/-- Settles O12: the step leaves the reset state, with the parameters, the moves still to come and
the values read. -/
theorem resetStepClearsTheBlock : Obligations.ResetStepClearsTheBlock := fun _ _ hm =>
  ⟨_, step_of_reset_move hm, rfl, rfl, rfl, rfl, hardReset_status _, rfl, rfl, rfl, rfl, rfl, rfl, rfl,
    rfl, rfl⟩

end Sys2Proof.Machine
end
